-- ==== Sys2Proof/Word.lean ====
section
/-!
DEFINITION. The word types of the Telegram Codec Engine: the widths that spec/00_scope.md R7 and
spec/10_state.md R11 give its operands, registers and port words.
-/

namespace Sys2Proof

/-- A 4-bit value: a nibble of an address, a write-data value, the fields `op` and `f` (R36, R37). -/
abbrev Nibble := BitVec 4

/-- An 8-bit value: a wire byte, an acknowledgement, a received byte, a byte count (R37). -/
abbrev Byte := BitVec 8

/-- A 16-bit value: a register address, the accumulator, a read-back view (R11, R18). -/
abbrev Half := BitVec 16

/-- A 24-bit command word (R35). -/
abbrev CommandWord := BitVec 24

/-- A 32-bit response word (R19). -/
abbrev ResponseWord := BitVec 32

end Sys2Proof
end

