-- ==== Sys2Proof/Syntax.lean ====
section
/-!
DEFINITION. The commands of the TCE as syntax: one constructor per row of spec/opcode_table.json
(spec/30_encoding.md R38), with the operands of R37, and the source form an assembler reads (R42, R43).
-/

namespace Sys2Proof

/-- The encode modes of R48: write-nibble (W), set-bit (S), clear-bit (C). MODE holds 0, 1 or 2 and
never 3 (R11), so the register is one of three names. DEDUCED, safe (log entry 5). -/
inductive EncMode where
  | writeNibble
  | setBit
  | clearBit
  deriving DecidableEq, Repr, Inhabited

/-- The sixteen read-back views of R18, by name. `txa i` and `exa i` are the rows TXAi and EXAi. -/
inductive View where
  | status
  | addr
  | txa (i : Fin 4)
  | exa (i : Fin 4)
  | len
  | data
  | acc
  | cfg
  | csum
  | id
  deriving DecidableEq, Repr

/-- The commands: one constructor per row of the opcode map of R38. -/
inductive Instr where
  /-- NOP (R71). -/
  | nop
  /-- CLR (R72). -/
  | clr
  /-- ENCA A (R54). -/
  | enca (a : Half)
  /-- ENCL n (R55). -/
  | encl (n : Byte)
  /-- ENCD.W v (R56). -/
  | encdW (v : Nibble)
  /-- ENCD.S v (R57). -/
  | encdS (v : Nibble)
  /-- ENCD.C v (R58). -/
  | encdC (v : Nibble)
  /-- CHKA i, rx (R62). -/
  | chka (i : Fin 4) (rx : Byte)
  /-- CHKL rx (R63). -/
  | chkl (rx : Byte)
  /-- CHKD rx (R64). -/
  | chkd (rx : Byte)
  /-- CSADD b (R69). -/
  | csadd (b : Byte)
  /-- CSCHK rx (R70). -/
  | cschk (rx : Byte)
  /-- RDREG sel (R73). -/
  | rdreg (sel : View)
  deriving DecidableEq, Repr

/-- The mnemonics of R38, as R42 spells them in assembler text. -/
inductive Mnemonic where
  | nop | clr | enca | encl | encdW | encdS | encdC | chka | chkl | chkd | csadd | cschk | rdreg
  deriving DecidableEq, Repr

/-- One line of assembler source (R42) after its text has been read: a mnemonic with its numeric
operands, not yet checked against the operand ranges, or a raw word (`.word`). -/
inductive SourceLine where
  | command (m : Mnemonic) (operands : List Nat)
  | word (w : Nat)
  deriving DecidableEq, Repr

end Sys2Proof
end

