-- ==== Sys2Proof/WellFormed.lean ====
section
/-!
DEFINITION. Which source lines and commands are well formed: the operand counts and ranges of
spec/30_encoding.md R37, which R42 makes an error to leave ("a value out of range is an assembly
error, never a truncation"). A term of `Instr` carries its operands at their widths, so every
`Instr` is well formed (Laws/Encoding.lean proves it); the checks bite on `SourceLine`.
-/

namespace Sys2Proof

/-- The widths in bits of a command's operands, in the order R42 writes them (R37). -/
def Mnemonic.operandWidths : Mnemonic → List Nat
  | .nop | .clr => []
  | .enca => [16]
  | .encl | .chkl | .chkd | .csadd | .cschk => [8]
  | .encdW | .encdS | .encdC => [4]
  | .chka => [2, 8]
  | .rdreg => [4]

/-- As many operands as widths, and each operand within its width. -/
def operandsFit : List Nat → List Nat → Bool
  | [], [] => true
  | w :: ws, x :: xs => decide (x < 2 ^ w) && operandsFit ws xs
  | _, _ => false

/-- A source line the assembler accepts (R42): a command whose operands fit, or a raw 24-bit word. -/
def SourceLine.wellFormed : SourceLine → Bool
  | .command m xs => operandsFit m.operandWidths xs
  | .word w => decide (w < 2 ^ 24)

end Sys2Proof
end

