-- ==== Sys2Proof/Decode.lean ====
section
/-!
DEFINITION. The decoder and the encoder of the command word (spec/30_encoding.md R35–R40) and the
opcode map as rows of match and mask (R38). The decoder is total: a word is a command, or it is
illegal for a named reason (R39, R40).
-/

namespace Sys2Proof

/-! ### Fields (R36) -/

/-- `cmd.op = w[23:20]`. -/
def fieldOp (w : CommandWord) : Nibble := w.extractLsb' 20 4
/-- `cmd.f = w[19:16]`. -/
def fieldF (w : CommandWord) : Nibble := w.extractLsb' 16 4
/-- `cmd.imm = w[15:0]`. -/
def fieldImm (w : CommandWord) : Half := w.extractLsb' 0 16

/-- A word from its three fields. -/
def packFields (op f : Nibble) (imm : Half) : CommandWord := op ++ f ++ imm

/-! ### The view select (R18) -/

/-- The 4-bit `sel` of a view. -/
def View.code : View → Nibble
  | .status => 0x0
  | .addr => 0x1
  | .txa i => BitVec.ofNat 4 (0x2 + i.val)
  | .exa i => BitVec.ofNat 4 (0x6 + i.val)
  | .len => 0xA
  | .data => 0xB
  | .acc => 0xC
  | .cfg => 0xD
  | .csum => 0xE
  | .id => 0xF

/-- The view a `sel` names. "Every `sel` value is legal" (R18). -/
def viewOfCode (sel : Nibble) : View :=
  match sel.toNat with
  | 0x0 => .status
  | 0x1 => .addr
  | 0x2 => .txa 0
  | 0x3 => .txa 1
  | 0x4 => .txa 2
  | 0x5 => .txa 3
  | 0x6 => .exa 0
  | 0x7 => .exa 1
  | 0x8 => .exa 2
  | 0x9 => .exa 3
  | 0xA => .len
  | 0xB => .data
  | 0xC => .acc
  | 0xD => .cfg
  | 0xE => .csum
  | _ => .id

/-! ### Decoding -/

/-- Why a word is illegal (R39). No state depends on the reason; log entry 12. -/
inductive IllegalWord where
  /-- `op` is in 0xB–0xF. -/
  | unassignedOp
  /-- `f` holds a value that the row of this `op` does not have (for CHKA: `f[3:2]` ≠ 0). -/
  | reservedF
  /-- `imm` holds a nonzero bit outside the row's operand. -/
  | reservedImm
  deriving DecidableEq, Repr

/-- The operand form with no operand: NOP, CLR. -/
def decodeNone (f : Nibble) (imm : Half) (i : Instr) : Except IllegalWord Instr :=
  if f ≠ 0 then .error .reservedF
  else if imm ≠ 0 then .error .reservedImm
  else .ok i

/-- The operand form of ENCA: A = `imm[15:0]`, `f` = 0 (R37). -/
def decodeImm16 (f : Nibble) (imm : Half) (mk : Half → Instr) : Except IllegalWord Instr :=
  if f ≠ 0 then .error .reservedF else .ok (mk imm)

/-- The operand form `imm[7:0]` with `imm[15:8]` = 0 and `f` = 0: n, rx and b (R37). -/
def decodeImm8 (f : Nibble) (imm : Half) (mk : Byte → Instr) : Except IllegalWord Instr :=
  if f ≠ 0 then .error .reservedF
  else if imm.extractLsb' 8 8 ≠ 0 then .error .reservedImm
  else .ok (mk (imm.extractLsb' 0 8))

/-- The operand form `imm[3:0]` with `imm[15:4]` = 0: v (R37). -/
def decodeImm4 (imm : Half) (mk : Nibble → Instr) : Except IllegalWord Instr :=
  if imm.extractLsb' 4 12 ≠ 0 then .error .reservedImm
  else .ok (mk (imm.extractLsb' 0 4))

/-- The three modes of op 0x4: `f` = 0, 1, 2 (R37, R38). -/
def decodeEncd (f : Nibble) (imm : Half) : Except IllegalWord Instr :=
  match f.toNat with
  | 0 => decodeImm4 imm .encdW
  | 1 => decodeImm4 imm .encdS
  | 2 => decodeImm4 imm .encdC
  | _ => .error .reservedF

/-- The operand form of CHKA: i = `f[1:0]` with `f[3:2]` = 0, rx = `imm[7:0]` with `imm[15:8]` = 0 (R37). -/
def decodeChka (f : Nibble) (imm : Half) : Except IllegalWord Instr :=
  if f.extractLsb' 2 2 ≠ 0 then .error .reservedF
  else if imm.extractLsb' 8 8 ≠ 0 then .error .reservedImm
  else .ok (.chka (f.extractLsb' 0 2).toFin (imm.extractLsb' 0 8))

/-- The operand form of RDREG: sel = `f`, `imm` = 0 (R37). -/
def decodeRdreg (f : Nibble) (imm : Half) : Except IllegalWord Instr :=
  if imm ≠ 0 then .error .reservedImm else .ok (.rdreg (viewOfCode f))

/-- The command a 24-bit word stands for, or the reason why it is illegal (R38, R39). -/
def decode (w : CommandWord) : Except IllegalWord Instr :=
  match (fieldOp w).toNat with
  | 0x0 => decodeNone (fieldF w) (fieldImm w) .nop
  | 0x1 => decodeNone (fieldF w) (fieldImm w) .clr
  | 0x2 => decodeImm16 (fieldF w) (fieldImm w) .enca
  | 0x3 => decodeImm8 (fieldF w) (fieldImm w) .encl
  | 0x4 => decodeEncd (fieldF w) (fieldImm w)
  | 0x5 => decodeChka (fieldF w) (fieldImm w)
  | 0x6 => decodeImm8 (fieldF w) (fieldImm w) .chkl
  | 0x7 => decodeImm8 (fieldF w) (fieldImm w) .chkd
  | 0x8 => decodeImm8 (fieldF w) (fieldImm w) .csadd
  | 0x9 => decodeImm8 (fieldF w) (fieldImm w) .cschk
  | 0xA => decodeRdreg (fieldF w) (fieldImm w)
  | _ => .error .unassignedOp

/-! ### Encoding -/

/-- The word of a command: its row's `match` with the operand in the row's free field (R37, R38). -/
def encode : Instr → CommandWord
  | .nop => packFields 0x0 0 0
  | .clr => packFields 0x1 0 0
  | .enca a => packFields 0x2 0 a
  | .encl n => packFields 0x3 0 (n.setWidth 16)
  | .encdW v => packFields 0x4 0 (v.setWidth 16)
  | .encdS v => packFields 0x4 1 (v.setWidth 16)
  | .encdC v => packFields 0x4 2 (v.setWidth 16)
  | .chka i rx => packFields 0x5 (BitVec.ofNat 4 i.val) (rx.setWidth 16)
  | .chkl rx => packFields 0x6 0 (rx.setWidth 16)
  | .chkd rx => packFields 0x7 0 (rx.setWidth 16)
  | .csadd b => packFields 0x8 0 (b.setWidth 16)
  | .cschk rx => packFields 0x9 0 (rx.setWidth 16)
  | .rdreg sel => packFields 0xA sel.code 0

/-- The mnemonic of a command (R38). -/
def Instr.mnemonic : Instr → Mnemonic
  | .nop => .nop
  | .clr => .clr
  | .enca _ => .enca
  | .encl _ => .encl
  | .encdW _ => .encdW
  | .encdS _ => .encdS
  | .encdC _ => .encdC
  | .chka _ _ => .chka
  | .chkl _ => .chkl
  | .chkd _ => .chkd
  | .csadd _ => .csadd
  | .cschk _ => .cschk
  | .rdreg _ => .rdreg

/-! ### The opcode map (R38) -/

/-- One row of the opcode map: a word is this row's when `(w AND mask) = value`. -/
structure OpcodeRow where
  mnemonic : Mnemonic
  value : CommandWord
  mask : CommandWord
  deriving DecidableEq, Repr

/-- "A word is a legal command exactly when it matches one row of this table: `(w AND mask) = match`." -/
def OpcodeRow.fits (r : OpcodeRow) (w : CommandWord) : Bool := w &&& r.mask == r.value

/-- The table of R38, row by row. -/
def opcodeTable : List OpcodeRow :=
  [⟨.nop, 0x000000, 0xFFFFFF⟩,
   ⟨.clr, 0x100000, 0xFFFFFF⟩,
   ⟨.enca, 0x200000, 0xFF0000⟩,
   ⟨.encl, 0x300000, 0xFFFF00⟩,
   ⟨.encdW, 0x400000, 0xFFFFF0⟩,
   ⟨.encdS, 0x410000, 0xFFFFF0⟩,
   ⟨.encdC, 0x420000, 0xFFFFF0⟩,
   ⟨.chka, 0x500000, 0xFCFF00⟩,
   ⟨.chkl, 0x600000, 0xFFFF00⟩,
   ⟨.chkd, 0x700000, 0xFFFF00⟩,
   ⟨.csadd, 0x800000, 0xFFFF00⟩,
   ⟨.cschk, 0x900000, 0xFFFF00⟩,
   ⟨.rdreg, 0xA00000, 0xF0FFFF⟩]

/-! ### The host's fixed name -/

/-- The instruction read from an instruction of the opcode table whose `nbits` bits are `w`. The TCE
takes its command as one 24-bit word on `cmd_word`, not as bytes in a memory (R27, R28), so the word
is handed to the decoder as it stands; bits above `nbits` are 0, and a longer one is no command.
Log entry 8. -/
def decodeTableWord (nbits w : Nat) : Option Instr :=
  if nbits ≤ 24 then
    match decode (BitVec.ofNat 24 (w % 2 ^ nbits)) with
    | .ok i => some i
    | .error _ => none
  else none

end Sys2Proof
end

