-- ==== Sys2Proof/Config.lean ====
section
/-!
DEFINITION. What is fixed for the machine: the document's constants, each named once as
spec/93_implementation_defined.md section 2 asks, and the one open parameter of the spec, the
registers' values before the first reset (`powerup_state`, R87), as constants without a body.
-/

namespace Sys2Proof.Config

/-! ### The document's literals (UNVERIFIED against any repository or device: 91_not_in_source.md N1; unsafe, log entry 9) -/

/-- ADDR_BASE (R44). -/
def addrBase : Nat := 0x82
/-- LEN_BASE (R46). -/
def lenBase : Nat := 0xC2
/-- LEN_MAX, the clamp of the length byte (R46). -/
def lenMax : Nat := 0xFE
/-- LEN_ACK (R47). -/
def lenAck : Nat := 0x30
/-- W_BASE (R48). -/
def wBase : Nat := 0x42
/-- S_BASE (R48). -/
def sBase : Nat := 0x12
/-- C_BASE (R48). -/
def cBase : Nat := 0x32
/-- W_ACK (R49). -/
def wAck : Nat := 0x10
/-- S_ACK (R49). -/
def sAck : Nat := 0x04
/-- C_ACK (R49). -/
def cAck : Nat := 0x0C
/-- RESET_ACK, the reset-acknowledge byte of R50. -/
def resetAck : Nat := 0x02
/-- RESET_CMD, the reset command byte of R50. -/
def resetCmd : Nat := 0x06

/-! ### The block's own parameters (R3, R7) -/

/-- The greatest legal transaction length (R7, R55). -/
def maxCount : Nat := 15
/-- The constant of the ID view (R3, R18). -/
def idValue : Half := 0x0007

/-! ### The open parameter `powerup_state` (R87, D15)

"The value of every register is unspecified" before the first reset edge: free values. Each is an
opaque constant, so nothing can be proved of it. Log entry 4 (safe). -/

/-- ADDR at power-up. -/
opaque powerupAddr : Half
/-- N at power-up. -/
opaque powerupN : Byte
/-- MODE at power-up. -/
opaque powerupMode : EncMode
/-- V at power-up. -/
opaque powerupV : Nibble
/-- ACC at power-up. -/
opaque powerupAcc : Half
/-- The nine stored STATUS bits at power-up, bit k as R14 numbers them. -/
opaque powerupStatus : BitVec 9
/-- RESP at power-up. -/
opaque powerupResp : ResponseWord

end Sys2Proof.Config
end

