-- ==== Sys2Proof/Machine/Codec.lean ====
section
/-!
DEFINITION. The document's byte formulas as pure functions of their operands
(spec/40_encoders.md R44–R49, spec/42_checksum.md R65). Each is computed exactly on naturals and
narrowed at the end (R8); only R46's clamp, R47's and R65's `mod` ever act.
-/

namespace Sys2Proof.Machine

/-- `nib_i(A) = A[15-4i : 12-4i]`: nibble i of an address, the most significant first (R8, R24). -/
def nib (i : Fin 4) (a : Half) : Nibble := a.extractLsb' (12 - 4 * i.val) 4

/-- Address encoder, byte i (R44). -/
def encA (i : Fin 4) (a : Half) : Byte := BitVec.ofNat 8 (Config.addrBase + 4 * (nib i a).toNat)

/-- Expected acknowledgement of address byte i (R45). -/
def ackA (i : Fin 4) (a : Half) : Byte := BitVec.ofNat 8 (16 * i.val + (nib i a).toNat)

/-- Length coder: the clamp acts on the unwrapped sum (R46). -/
def encL (n : Byte) : Byte := BitVec.ofNat 8 (min (Config.lenBase + 4 * n.toNat) Config.lenMax)

/-- Expected acknowledgement of the length byte, mod 256 and not clamped (R47). -/
def ackL (n : Byte) : Byte := BitVec.ofNat 8 ((Config.lenAck + n.toNat) % 256)

/-- `base(m)` of R48. -/
def modeBase : EncMode → Nat
  | .writeNibble => Config.wBase
  | .setBit => Config.sBase
  | .clearBit => Config.cBase

/-- `ackc(m)` of R49. -/
def modeAck : EncMode → Nat
  | .writeNibble => Config.wAck
  | .setBit => Config.sAck
  | .clearBit => Config.cAck

/-- Data-byte encoder (R48). -/
def encD (m : EncMode) (v : Nibble) : Byte := BitVec.ofNat 8 (modeBase m + 4 * v.toNat)

/-- Expected acknowledgement of a data byte (R49). -/
def ackD (m : EncMode) (v : Nibble) : Byte := BitVec.ofNat 8 (v.toNat + modeAck m)

/-- The checksum of a sequence of data bytes: their sum mod 256, 0 for none (R65). -/
def checksum (bs : List Byte) : Byte := BitVec.ofNat 8 ((bs.map BitVec.toNat).sum % 256)

end Sys2Proof.Machine
end

