-- ==== Sys2Proof/Machine/State.lean ====
section
/-!
DEFINITION. The state of the TCE as plain data: the registers of spec/10_state.md R11, the stored
STATUS bits of R14, the output bit `rsp_valid` of R10 and R94, and the input samples the clock edges
to come will see. The reset state of spec/70_reset_and_hazards.md R86.
-/

namespace Sys2Proof.Machine

/-- The nine stored bits of STATUS (R14), by name; bit 9 (ANY) is computed and is in Flags.lean. -/
structure Status where
  /-- bit 0, OK: not sticky, written by every check command -/
  ok : Bool
  /-- bit 1, AV: ENCA has latched ADDR since the last clear -/
  av : Bool
  /-- bit 2, LV: ENCL has latched N since the last clear -/
  lv : Bool
  /-- bit 3, DV: an ENCD has latched MODE and V since the last clear -/
  dv : Bool
  /-- bit 4, ACKERR, sticky -/
  ackErr : Bool
  /-- bit 5, CSERR, sticky -/
  csErr : Bool
  /-- bit 6, LENERR, sticky -/
  lenErr : Bool
  /-- bit 7, SEQERR, sticky -/
  seqErr : Bool
  /-- bit 8, ILLCMD, sticky -/
  illCmd : Bool
  deriving DecidableEq, Repr

/-- What the host drives on the input pins at one rising edge of `clk` (R10): `rst`, `cmd_valid` and
`cmd_word`. -/
structure PortCycle where
  rst : Bool
  cmdValid : Bool
  cmdWord : CommandWord
  deriving DecidableEq, Repr

/-- The TCE's state. "The registers of rule R11 are the whole state of the TCE" (R20); the last three
fields are the output bit of R94 and the model's own two (log entries 1, 2, 3). -/
structure State where
  /-- ADDR, the latched register address -/
  addr : Half
  /-- N, the latched byte count -/
  n : Byte
  /-- MODE, the latched encode mode -/
  mode : EncMode
  /-- V, the latched write-data value -/
  v : Nibble
  /-- ACC, the checksum accumulator -/
  acc : Half
  /-- STATUS, its stored bits -/
  status : Status
  /-- RESP, the response of the last accepted command; the output `rsp_word` shows it (R19) -/
  resp : ResponseWord
  /-- the output `rsp_valid`: the last edge accepted a command (R94). DEDUCED, log entry 2 -/
  rspValid : Bool
  /-- the model's own: a reset edge has happened since power-up (R87). Log entry 3 -/
  resetSeen : Bool
  /-- the model's own: the input samples of the coming edges, the next one first. Log entry 1 -/
  inbox : List PortCycle
  deriving DecidableEq, Repr

/-- The reasons the machine could stop with a fault: there are none. "The TCE never traps, halts or
refuses a command" (R77), so no constructor stands here and no step can answer a fault. Log entry 7. -/
inductive Fault where
  deriving DecidableEq, Repr

/-- The reasons for which the model gives a step no meaning. -/
inductive Refusal where
  /-- Raised by an arm of `exec` whose command has no meaning yet. No arm raises it. Safe. -/
  | notModelled (mnemonic : String)
  /-- Raised by `step` where a command is accepted before the first reset edge after power-up: the
  behaviour is unspecified, and a model "must not give a meaning to a command accepted before the
  first reset" (R87). Safe. Log entry 3. -/
  | commandBeforeReset
  deriving DecidableEq, Repr

/-- STATUS with every stored bit 0, as after a reset edge or CLR (R86, R72). -/
def Status.reset : Status where
  ok := false
  av := false
  lv := false
  dv := false
  ackErr := false
  csErr := false
  lenErr := false
  seqErr := false
  illCmd := false

/-- The state a reset edge leaves (R86): every register 0, `rsp_valid` 0, and no input placed. -/
def State.reset : State where
  addr := 0x0000
  n := 0x00
  mode := .writeNibble
  v := 0x0
  acc := 0x0000
  status := Status.reset
  resp := 0x00000000
  rspValid := false
  resetSeen := true
  inbox := []

end Sys2Proof.Machine
end

