-- ==== Sys2Proof/Machine/Flags.lean ====
section
/-!
DEFINITION. STATUS: the 16-bit view of spec/10_state.md R14, the computed bit ANY, and raising an
error cause of spec/60_exceptions.md R78, which is all the TCE has in place of an exception (R77).
-/

namespace Sys2Proof.Machine

/-- The error causes of R78. -/
inductive Cause where
  | ackErr
  | csErr
  | lenErr
  | seqErr
  | illCmd
  deriving DecidableEq, Repr

/-- "The cause code is the flag's bit position in STATUS" (R78). -/
def Cause.code : Cause → Nat
  | .ackErr => 4
  | .csErr => 5
  | .lenErr => 6
  | .seqErr => 7
  | .illCmd => 8

/-- `flag(F)`: write 1 to the sticky bit of a cause (R8). -/
def Status.raise (c : Cause) (st : Status) : Status :=
  match c with
  | .ackErr => { st with ackErr := true }
  | .csErr => { st with csErr := true }
  | .lenErr => { st with lenErr := true }
  | .seqErr => { st with seqErr := true }
  | .illCmd => { st with illCmd := true }

/-- The sticky bit of a cause. -/
def Status.raised (c : Cause) (st : Status) : Bool :=
  match c with
  | .ackErr => st.ackErr
  | .csErr => st.csErr
  | .lenErr => st.lenErr
  | .seqErr => st.seqErr
  | .illCmd => st.illCmd

/-- Bit 9, ANY: "equals ACKERR OR CSERR OR LENERR OR SEQERR OR ILLCMD" (R14). -/
def Status.any (st : Status) : Bool :=
  st.ackErr || st.csErr || st.lenErr || st.seqErr || st.illCmd

/-- The 16-bit view of STATUS: bits 0–8 stored, bit 9 ANY, bits 15:10 zero (R14). -/
def Status.word (st : Status) : Half :=
  0#6 ++ BitVec.ofBool st.any ++ BitVec.ofBool st.illCmd ++ BitVec.ofBool st.seqErr
    ++ BitVec.ofBool st.lenErr ++ BitVec.ofBool st.csErr ++ BitVec.ofBool st.ackErr
    ++ BitVec.ofBool st.dv ++ BitVec.ofBool st.lv ++ BitVec.ofBool st.av ++ BitVec.ofBool st.ok

/-- ENCL's error condition: "n = 0 or n > 15" (R55). -/
def countIllegal (n : Byte) : Bool := n.toNat == 0 || decide (Config.maxCount < n.toNat)

/-- The stored bits of STATUS from nine bits, bit k as R14 numbers them: for the power-up values. -/
def statusOfBits (b : BitVec 9) : Status where
  ok := b.getLsbD 0
  av := b.getLsbD 1
  lv := b.getLsbD 2
  dv := b.getLsbD 3
  ackErr := b.getLsbD 4
  csErr := b.getLsbD 5
  lenErr := b.getLsbD 6
  seqErr := b.getLsbD 7
  illCmd := b.getLsbD 8

end Sys2Proof.Machine
end

