-- ==== Sys2Proof/Machine/Operands.lean ====
section
/-!
DEFINITION. The values the commands read from the registers: the computed values of
spec/10_state.md R17, the read-back views of R18, and the packings of bytes into words of
spec/20_memory.md R25 and spec/41_ack_check.md R60.
-/

namespace Sys2Proof.Machine

/-! ### Computed values (R17) -/

/-- TXA_i. -/
def State.txa (s : State) (i : Fin 4) : Byte := encA i s.addr
/-- EXA_i. -/
def State.exa (s : State) (i : Fin 4) : Byte := ackA i s.addr
/-- TXL. -/
def State.txl (s : State) : Byte := encL s.n
/-- EXL. -/
def State.exl (s : State) : Byte := ackL s.n
/-- TXD. -/
def State.txd (s : State) : Byte := encD s.mode s.v
/-- EXD. -/
def State.exd (s : State) : Byte := ackD s.mode s.v
/-- CSUM = ACC[7:0] (R66). -/
def State.csum (s : State) : Byte := s.acc.extractLsb' 0 8

/-- The two bits of MODE (R11). -/
def modeBits : EncMode → BitVec 2
  | .writeNibble => 0
  | .setBit => 1
  | .clearBit => 2

/-! ### Packings -/

/-- A wire byte and its expected acknowledgement: {ack, wire byte} (R25). -/
def packPair (ack wire : Byte) : Half := ack ++ wire

/-- The address telegram: byte 0, sent first, in bits 31:24 (R25). -/
def packTelegram (a : Half) : ResponseWord := encA 0 a ++ encA 1 a ++ encA 2 a ++ encA 3 a

/-- The response of a check: {0x00, RX, EXP, 000000, SEQ, MATCH} (R60). -/
def packCheck (rx exp : Byte) (seq hit : Bool) : ResponseWord :=
  0#8 ++ rx ++ exp ++ 0#6 ++ BitVec.ofBool seq ++ BitVec.ofBool hit

/-! ### Views (R18) -/

/-- The 16-bit value of a view. Reading it changes nothing (R29). -/
def State.view (s : State) : View → Half
  | .status => s.status.word
  | .addr => s.addr
  | .txa i => (s.txa i).setWidth 16
  | .exa i => (s.exa i).setWidth 16
  | .len => packPair s.exl s.txl
  | .data => packPair s.exd s.txd
  | .acc => s.acc
  | .cfg => 0#2 ++ modeBits s.mode ++ s.v ++ s.n
  | .csum => s.csum.setWidth 16
  | .id => Config.idValue

end Sys2Proof.Machine
end

