-- ==== Sys2Proof/Machine/Ops.lean ====
section
/-!
DEFINITION. The shared operations over the registers: writing the response, latching, clearing,
raising an error cause, the check procedure of spec/41_ack_check.md R59, an illegal word
(spec/30_encoding.md R39), a reset edge (spec/70_reset_and_hazards.md R86) and an edge that accepts
nothing (R94). The TCE has no trap entry and no return from one (R77, R82, R83): raising a sticky flag
(`State.raise`) is all that an error does.
-/

namespace Sys2Proof.Machine

/-- `RESP <- r` at an accepting edge: `rsp_valid` is 1 in the next cycle (R19, R94). -/
def State.respond (r : ResponseWord) (s : State) : State :=
  { s with resp := r, rspValid := true }

/-- `flag(F)` (R8, R78). -/
def State.raise (c : Cause) (s : State) : State :=
  { s with status := s.status.raise c }

/-- `OK <- b` (R15, R59). -/
def State.setOk (b : Bool) (s : State) : State :=
  { s with status := { s.status with ok := b } }

/-- `ADDR <- A; AV <- 1` (R54). -/
def State.latchAddr (a : Half) (s : State) : State :=
  { s with addr := a, status := { s.status with av := true } }

/-- `N <- n; LV <- 1` (R55). -/
def State.latchCount (n : Byte) (s : State) : State :=
  { s with n := n, status := { s.status with lv := true } }

/-- `MODE <- m; V <- v; DV <- 1` (R56–R58). -/
def State.latchData (m : EncMode) (v : Nibble) (s : State) : State :=
  { s with mode := m, v := v, status := { s.status with dv := true } }

/-- Every register but RESP to its reset value (R72). -/
def State.clear (s : State) : State :=
  { s with addr := 0x0000, n := 0x00, mode := .writeNibble, v := 0x0, acc := 0x0000,
           status := Status.reset }

/-- The ENCD commands: latch, then answer {ackD, encD} (R56–R58). -/
def State.encodeData (m : EncMode) (v : Nibble) (s : State) : State :=
  (s.latchData m v).respond ((packPair (ackD m v) (encD m v)).setWidth 32)

/-- `check(valid, e, rx, ERR)`, the procedure of R59. -/
def State.check (valid : Bool) (e rx : Byte) (err : Cause) (s : State) : State :=
  if valid then
    if rx == e then (s.setOk true).respond (packCheck rx e false true)
    else ((s.setOk false).raise err).respond (packCheck rx e false false)
  else ((s.setOk false).raise .seqErr).respond (packCheck rx 0x00 true false)

/-- A word that is no command: `flag(ILLCMD); RESP <- 0x00000000` and nothing else (R39). -/
def State.illegalCommand (s : State) : State :=
  (s.raise .illCmd).respond 0x00000000

/-- A rising edge with `rst` = 1: every register takes its reset value, `rsp_valid` is 0 in the next
cycle (R86), and the reset has been seen (R87). -/
def State.resetEdge (s : State) : State :=
  { State.reset with inbox := s.inbox }

/-- A rising edge that accepts no command: the registers keep their values (R8), `rsp_valid` is 0 in
the next cycle (R94). -/
def State.idleEdge (s : State) : State :=
  { s with rspValid := false }

/-- The state at power-up, before the first reset edge: every register at its unspecified value (R87),
`rsp_valid` 0 since no edge has accepted a command (R94). Log entry 4. -/
def State.powerUp (inputs : List PortCycle) : State where
  addr := Config.powerupAddr
  n := Config.powerupN
  mode := Config.powerupMode
  v := Config.powerupV
  acc := Config.powerupAcc
  status := statusOfBits Config.powerupStatus
  resp := Config.powerupResp
  rspValid := false
  resetSeen := false
  inbox := inputs

end Sys2Proof.Machine
end

