-- ==== Sys2Proof/Machine/AckCheck.lean ====
section
/-!
DEFINITION. The acknowledgement checks of spec/41_ack_check.md: CHKA, CHKL, CHKD.
-/

namespace Sys2Proof.Machine

/-- CHKA i, rx: `check(AV, ackA_i(ADDR), rx, ACKERR)` (R62). -/
def execChka (i : Fin 4) (rx : Byte) (s : State) : Host.Outcome State Fault Refusal :=
  .next (s.check s.status.av (s.exa i) rx .ackErr)

/-- CHKL rx: `check(LV, ackL(N), rx, ACKERR)` (R63). -/
def execChkl (rx : Byte) (s : State) : Host.Outcome State Fault Refusal :=
  .next (s.check s.status.lv s.exl rx .ackErr)

/-- CHKD rx: `check(DV, ackD(MODE, V), rx, ACKERR)` (R64). -/
def execChkd (rx : Byte) (s : State) : Host.Outcome State Fault Refusal :=
  .next (s.check s.status.dv s.exd rx .ackErr)

end Sys2Proof.Machine
end

