-- ==== Sys2Proof/Machine/Checksum.lean ====
section
/-!
DEFINITION. The checksum commands of spec/42_checksum.md: CSADD, CSCHK.
-/

namespace Sys2Proof.Machine

/-- CSADD b: `ACC <- (ACC + b) mod 65536`, and RESP the new ACC (R69). -/
def execCsadd (b : Byte) (s : State) : Host.Outcome State Fault Refusal :=
  let sum : Half := BitVec.ofNat 16 ((s.acc.toNat + b.toNat) % 65536)
  .next (State.respond (sum.setWidth 32) { s with acc := sum })

/-- CSCHK rx: `check(1, ACC[7:0], rx, CSERR)` (R70). -/
def execCschk (rx : Byte) (s : State) : Host.Outcome State Fault Refusal :=
  .next (s.check true s.csum rx .csErr)

end Sys2Proof.Machine
end

