-- ==== Sys2Proof/Machine/Control.lean ====
section
/-!
DEFINITION. The control commands of spec/43_control.md: NOP, CLR, RDREG.
-/

namespace Sys2Proof.Machine

/-- NOP: `RESP <- 0` and nothing else (R71). -/
def execNop (s : State) : Host.Outcome State Fault Refusal :=
  .next (s.respond 0x00000000)

/-- CLR: every register to its reset value (R72). -/
def execClr (s : State) : Host.Outcome State Fault Refusal :=
  .next (s.clear.respond 0x00000000)

/-- RDREG sel: `RESP <- zext_32(view(sel))`, the view of the state before (R73). -/
def execRdreg (sel : View) (s : State) : Host.Outcome State Fault Refusal :=
  .next (s.respond ((s.view sel).setWidth 32))

end Sys2Proof.Machine
end

