-- ==== Sys2Proof/Machine/Encoders.lean ====
section
/-!
DEFINITION. The encoding commands of spec/40_encoders.md section 3: ENCA, ENCL, ENCD.W, ENCD.S, ENCD.C.
-/

namespace Sys2Proof.Machine

/-- ENCA A (R54). -/
def execEnca (a : Half) (s : State) : Host.Outcome State Fault Refusal :=
  .next ((s.latchAddr a).respond (packTelegram a))

/-- ENCL n: LENERR when n is outside 1–15; the byte is encoded all the same (R55). -/
def execEncl (n : Byte) (s : State) : Host.Outcome State Fault Refusal :=
  let latched := s.latchCount n
  let flagged := if countIllegal n then latched.raise .lenErr else latched
  .next (flagged.respond ((packPair (ackL n) (encL n)).setWidth 32))

/-- ENCD.W v (R56). -/
def execEncdW (v : Nibble) (s : State) : Host.Outcome State Fault Refusal :=
  .next (s.encodeData .writeNibble v)

/-- ENCD.S v (R57). -/
def execEncdS (v : Nibble) (s : State) : Host.Outcome State Fault Refusal :=
  .next (s.encodeData .setBit v)

/-- ENCD.C v (R58). -/
def execEncdC (v : Nibble) (s : State) : Host.Outcome State Fault Refusal :=
  .next (s.encodeData .clearBit v)

end Sys2Proof.Machine
end

