-- ==== Sys2Proof/Machine/Dispatch.lean ====
section
/-!
DEFINITION. The effect of every command: one arm per constructor of `Instr`, each one call of its meaning.
-/

namespace Sys2Proof.Machine

def exec (i : Instr) (s : State) : Host.Outcome State Fault Refusal :=
  match i with
  | .nop => Sys2Proof.Machine.execNop s
  | .clr => Sys2Proof.Machine.execClr s
  | .enca a => Sys2Proof.Machine.execEnca a s
  | .encl n => Sys2Proof.Machine.execEncl n s
  | .encdW v => Sys2Proof.Machine.execEncdW v s
  | .encdS v => Sys2Proof.Machine.execEncdS v s
  | .encdC v => Sys2Proof.Machine.execEncdC v s
  | .chka idx rx => Sys2Proof.Machine.execChka idx rx s
  | .chkl rx => Sys2Proof.Machine.execChkl rx s
  | .chkd rx => Sys2Proof.Machine.execChkd rx s
  | .csadd b => Sys2Proof.Machine.execCsadd b s
  | .cschk rx => Sys2Proof.Machine.execCschk rx s
  | .rdreg sel => Sys2Proof.Machine.execRdreg sel s

end Sys2Proof.Machine
end

