-- ==== Sys2Proof/Machine/Port.lean ====
section
/-!
DEFINITION. The command port (spec/10_state.md R10, spec/70_reset_and_hazards.md R86–R88, R94, R95):
what one rising edge of `clk` does with the input pins it samples, and the output pins.
-/

namespace Sys2Proof.Machine

/-- An accepted command word: the command it decodes to, or an illegal word (R9, R38, R39). -/
def acceptWord (w : CommandWord) (s : State) : Host.Outcome State Fault Refusal :=
  match decode w with
  | .ok i => exec i s
  | .error _ => .next s.illegalCommand

/-- One rising edge of `clk` that samples the inputs `c`. Reset wins over an offered command (R80, R86);
a command is accepted where `cmd_valid` = 1 and `rst` = 0 (R94); one accepted before the first reset
edge has no meaning (R87). -/
def clockEdge (c : PortCycle) (s : State) : Host.Outcome State Fault Refusal :=
  if c.rst then .next s.resetEdge
  else if c.cmdValid then
    if s.resetSeen then acceptWord c.cmdWord s else .refused .commandBeforeReset
  else .next s.idleEdge

/-- The inputs where the host drives nothing: `rst` = 0 and `cmd_valid` = 0. -/
def PortCycle.idle : PortCycle := ⟨false, false, 0⟩

/-- The inputs of a cycle in which the host offers the word `w`. -/
def PortCycle.command (w : CommandWord) : PortCycle := ⟨false, true, w⟩

/-- The inputs of a cycle in which the host holds `rst` = 1, whatever it drives on the other pins. -/
def PortCycle.reset (valid : Bool) (w : CommandWord) : PortCycle := ⟨true, valid, w⟩

/-- The next edge's inputs: the first of `inbox`, or none driven where it is empty. Log entry 1. -/
def State.nextInput (s : State) : PortCycle := s.inbox.headD PortCycle.idle

/-- The state with its next input sample taken. -/
def State.takeInput (s : State) : State := { s with inbox := s.inbox.tail }

/-- The output `cmd_ready`: "equals NOT `rst`" (R10). -/
def cmdReady (c : PortCycle) : Bool := !c.rst

/-- The outputs `rsp_valid` and `rsp_word` of R10 (R19, R94). -/
def State.outputs (s : State) : Bool × ResponseWord := (s.rspValid, s.resp)

/-- `Step(s, w) = (s', r)` of R9: the next state of an accepted word and the response it returns, or
none where the model gives it no meaning. -/
def commandStep (w : CommandWord) (s : State) : Option (State × ResponseWord) :=
  match acceptWord w s with
  | .next t => some (t, t.resp)
  | .fault _ => none
  | .refused _ => none

/-- Words accepted one after the other, each seeing every effect of those before it (R31). -/
def acceptAll : List CommandWord → State → Host.Outcome State Fault Refusal
  | [], s => .next s
  | w :: ws, s =>
    match acceptWord w s with
    | .next t => acceptAll ws t
    | .fault r => .fault r
    | .refused r => .refused r

end Sys2Proof.Machine
end

