-- ==== Sys2Proof/Machine/Step.lean ====
section
/-!
DEFINITION. One step of the machine: one rising edge of `clk` (spec/00_scope.md R4, R9;
spec/70_reset_and_hazards.md R94).
-/

namespace Sys2Proof.Machine

/-- One rising edge: sample the next inputs and do what they ask. With nothing in `inbox` "the TCE waits
for the first command" (R86): an edge that accepts nothing. -/
def step (s : State) : Host.Outcome State Fault Refusal :=
  clockEdge s.nextInput s.takeInput

/-- `s` with the host offering the word `w` at the next edge (the TCE fetches nothing, R13: a command
comes only from the host, R33), and the reset that R87 asks for seen. Log entry 8. -/
def State.withFetchWord (s : State) (nbits w : Nat) : State :=
  { s with
    resetSeen := true
    inbox := PortCycle.command (BitVec.ofNat 24 (w % 2 ^ nbits)) :: s.inbox }

end Sys2Proof.Machine
end

