-- ==== Sys2Proof/Machine/Asm.lean ====
section
/-!
DEFINITION. The assembler of spec/30_encoding.md R42 and R43: a line of text to a source line, and a
source line to its command word. "A value out of range is an assembly error, never a truncation."
What the spec leaves open in the text's form (spaces, letter case, digits) is in log entry 13.
-/

namespace Sys2Proof

/-! ### From a source line to a word -/

/-- The source form of a command: its mnemonic and its operands as numbers (R37, R42). -/
def Instr.toSource : Instr → SourceLine
  | .nop => .command .nop []
  | .clr => .command .clr []
  | .enca a => .command .enca [a.toNat]
  | .encl n => .command .encl [n.toNat]
  | .encdW v => .command .encdW [v.toNat]
  | .encdS v => .command .encdS [v.toNat]
  | .encdC v => .command .encdC [v.toNat]
  | .chka i rx => .command .chka [i.val, rx.toNat]
  | .chkl rx => .command .chkl [rx.toNat]
  | .chkd rx => .command .chkd [rx.toNat]
  | .csadd b => .command .csadd [b.toNat]
  | .cschk rx => .command .cschk [rx.toNat]
  | .rdreg sel => .command .rdreg [sel.code.toNat]

/-- A command is well formed when its source form is (R37). -/
def Instr.wellFormed (i : Instr) : Bool := i.toSource.wellFormed

/-- The command a mnemonic and its operands stand for, with no check of their ranges. -/
def commandOf : Mnemonic → List Nat → Option Instr
  | .nop, [] => some .nop
  | .clr, [] => some .clr
  | .enca, [a] => some (.enca (BitVec.ofNat 16 a))
  | .encl, [n] => some (.encl (BitVec.ofNat 8 n))
  | .encdW, [v] => some (.encdW (BitVec.ofNat 4 v))
  | .encdS, [v] => some (.encdS (BitVec.ofNat 4 v))
  | .encdC, [v] => some (.encdC (BitVec.ofNat 4 v))
  | .chka, [i, rx] => some (.chka (Fin.ofNat 4 i) (BitVec.ofNat 8 rx))
  | .chkl, [rx] => some (.chkl (BitVec.ofNat 8 rx))
  | .chkd, [rx] => some (.chkd (BitVec.ofNat 8 rx))
  | .csadd, [b] => some (.csadd (BitVec.ofNat 8 b))
  | .cschk, [rx] => some (.cschk (BitVec.ofNat 8 rx))
  | .rdreg, [sel] => some (.rdreg (viewOfCode (BitVec.ofNat 4 sel)))
  | _, _ => none

/-- The word a source line assembles to, or none where it is an assembly error (R42). -/
def assembleSource (l : SourceLine) : Option CommandWord :=
  if l.wellFormed then
    match l with
    | .command m xs => (commandOf m xs).map encode
    | .word w => some (BitVec.ofNat 24 w)
  else none

/-! ### From text to a source line -/

/-- The characters that separate words of a line. -/
def isBlank (c : Char) : Bool := c == ' ' || c == '\t' || c == '\r'

/-- The text of a line before its comment: "A `;` starts a comment" (R42). -/
def dropComment (cs : List Char) : List Char := cs.takeWhile (· != ';')

/-- Blanks taken off both ends. -/
def trimBlanks (cs : List Char) : List Char :=
  ((cs.dropWhile isBlank).reverse.dropWhile isBlank).reverse

/-- A text cut at its commas: "operands separated by commas" (R42). -/
def splitCommas : List Char → List (List Char)
  | [] => [[]]
  | c :: cs =>
    if c == ',' then [] :: splitCommas cs
    else
      match splitCommas cs with
      | [] => [[c]]
      | p :: ps => (c :: p) :: ps

/-- The value of a digit in base `b` (10 or 16), hexadecimal letters in either case. -/
def digitValue (b : Nat) (c : Char) : Option Nat :=
  let k := c.toNat
  let d :=
    if 48 ≤ k ∧ k ≤ 57 then some (k - 48)
    else if 65 ≤ k ∧ k ≤ 70 then some (k - 55)
    else if 97 ≤ k ∧ k ≤ 102 then some (k - 87)
    else none
  d.filter (· < b)

/-- Digits read on from the value `acc`. -/
def readDigits (b : Nat) : Nat → List Char → Option Nat
  | acc, [] => some acc
  | acc, c :: cs =>
    match digitValue b c with
    | some d => readDigits b (acc * b + d) cs
    | none => none

/-- "Numbers are decimal, or hexadecimal with a `0x` prefix" (R42); at least one digit. -/
def readNumber : List Char → Option Nat
  | '0' :: 'x' :: c :: cs => readDigits 16 0 (c :: cs)
  | c :: cs => readDigits 10 0 (c :: cs)
  | [] => none

/-- The mnemonics as R42 spells them. -/
def mnemonicNames : List (String × Mnemonic) :=
  [("NOP", .nop), ("CLR", .clr), ("ENCA", .enca), ("ENCL", .encl), ("ENCD.W", .encdW),
   ("ENCD.S", .encdS), ("ENCD.C", .encdC), ("CHKA", .chka), ("CHKL", .chkl), ("CHKD", .chkd),
   ("CSADD", .csadd), ("CSCHK", .cschk), ("RDREG", .rdreg)]

/-- The names of the views (R18), "that an assembler may accept in place of the number in `RDREG sel`" (R43). -/
def viewNames : List (String × View) :=
  [("STATUS", .status), ("ADDR", .addr), ("TXA0", .txa 0), ("TXA1", .txa 1), ("TXA2", .txa 2),
   ("TXA3", .txa 3), ("EXA0", .exa 0), ("EXA1", .exa 1), ("EXA2", .exa 2), ("EXA3", .exa 3),
   ("LEN", .len), ("DATA", .data), ("ACC", .acc), ("CFG", .cfg), ("CSUM", .csum), ("ID", .id)]

/-- The entry of a table of names. -/
def lookupName {α : Type} (cs : List Char) : List (String × α) → Option α
  | [] => none
  | (s, a) :: t => if cs == s.toList then some a else lookupName cs t

/-- One operand: a number, or for RDREG a view's name. -/
def readOperand (m : Mnemonic) (cs : List Char) : Option Nat :=
  match m, lookupName cs viewNames with
  | .rdreg, some view => some view.code.toNat
  | _, _ => readNumber cs

/-- The operands of a command, read from the text after its mnemonic. -/
def readOperands (m : Mnemonic) (cs : List Char) : Option (List Nat) :=
  if cs.isEmpty then some [] else (splitCommas cs).mapM (fun p => readOperand m (trimBlanks p))

/-- "`.word 0xhhhhhh` with six hexadecimal digits" (R42). -/
def readRawWord : List Char → Option Nat
  | '0' :: 'x' :: ds => if ds.length == 6 then readDigits 16 0 ds else none
  | _ => none

/-- What a line of text says (R42): `some none` for a line with nothing but blanks and a comment. -/
def readLine (text : List Char) : Option (Option SourceLine) :=
  let body := trimBlanks (dropComment text)
  let head := body.takeWhile (fun c => !isBlank c)
  let rest := trimBlanks (body.dropWhile (fun c => !isBlank c))
  if body.isEmpty then some none
  else if head == ".word".toList then (readRawWord rest).map (fun w => some (.word w))
  else
    match lookupName head mnemonicNames with
    | some m => (readOperands m rest).map (fun xs => some (.command m xs))
    | none => none

/-- A line of assembler text to the words it stands for: one word, or none for an empty line;
`none` where the line is an assembly error (R42). -/
def assembleLine (text : String) : Option (List CommandWord) :=
  match readLine text.toList with
  | none => none
  | some none => some []
  | some (some l) => (assembleSource l).map (fun w => [w])

/-- A whole source text, a line at a time: "one command per line" (R42). -/
def assemble (lines : List String) : Option (List CommandWord) :=
  (lines.mapM assembleLine).map List.flatten

end Sys2Proof
end

