-- ==== Sys2Proof/Machine/HostSeq.lean ====
section
/-!
DEFINITION. The host's side of spec/70_reset_and_hazards.md R90–R93 as lists of commands: one read
attempt and one write attempt, as far as they are commands of the TCE. The line, the Reset Handshake
and the retries are the host's and out of scope (spec/00_scope.md R6; log entry 11). The TCE does not
check that a host follows these sequences (R90).
-/

namespace Sys2Proof.Machine

/-- The four address checks and the length check, with the bytes received (R91 steps 3 and 4). -/
def setupChecks (r0 r1 r2 r3 rl : Byte) : List Instr :=
  [.chka 0 r0, .chka 1 r1, .chka 2 r2, .chka 3 r3, .chkl rl]

/-- One read attempt (R91): CLR, encode, check the setup bytes, sum the data bytes, check the
received checksum byte `c`. -/
def readAttempt (a : Half) (n r0 r1 r2 r3 rl : Byte) (data : List Byte) (c : Byte) : List Instr :=
  [.clr, .enca a, .encl n] ++ setupChecks r0 r1 r2 r3 rl ++ data.map .csadd ++ [.cschk c]

/-- The ENCD command of a mode. -/
def encdCommand : EncMode → Nibble → Instr
  | .writeNibble, v => .encdW v
  | .setBit, v => .encdS v
  | .clearBit, v => .encdC v

/-- One write attempt (R92): as a read up to the length byte, then ENCD and CHKD for each value with
the byte received for it. "No trailing checksum byte is read for writes". -/
def writeAttempt (a : Half) (n r0 r1 r2 r3 rl : Byte) (m : EncMode) (data : List (Nibble × Byte)) :
    List Instr :=
  [.clr, .enca a, .encl n] ++ setupChecks r0 r1 r2 r3 rl
    ++ data.flatMap (fun p => [encdCommand m p.1, .chkd p.2])

/-- The 1-bit write of R93: a write attempt of one byte in a bit mode. -/
def bitWriteAttempt (a : Half) (r0 r1 r2 r3 rl : Byte) (set : Bool) (v : Nibble) (rd : Byte) :
    List Instr :=
  writeAttempt a 1 r0 r1 r2 r3 rl (if set then .setBit else .clearBit) [(v, rd)]

/-- The input samples by which a host offers commands back to back, one an edge (R94). -/
def offers (is : List Instr) : List PortCycle := is.map (fun i => PortCycle.command (encode i))

/-- A check command: one whose response holds MATCH (R60). -/
def isCheckCommand : Instr → Bool
  | .chka _ _ | .chkl _ | .chkd _ | .cschk _ => true
  | .nop | .clr | .enca _ | .encl _ | .encdW _ | .encdS _ | .encdC _ | .csadd _ | .rdreg _ => false

/-- The commands of an attempt taken in order, stopping after the first check that answers MATCH = 0:
"stop at the first MATCH = 0 (the document's abort)" (R90). True when the whole list was taken. -/
def runAttempt : List Instr → State → Host.Outcome (State × Bool) Fault Refusal
  | [], s => .next (s, true)
  | i :: is, s =>
    match exec i s with
    | .next t => if isCheckCommand i && !t.status.ok then .next (t, false) else runAttempt is t
    | .fault r => .fault r
    | .refused r => .refused r

end Sys2Proof.Machine
end

