-- ==== Sys2Proof/Safety.lean ====
section
/-!
DEFINITION. What the claims call a good state or a good run, in the spec's terms.
-/

namespace Sys2Proof.Machine

/-- The relations between the latches and the flags that commands keep: an operand whose valid bit is 0
is at its reset value, and a flag that only a performed command can set has its valid bit beside it
(R11, R14, R16: the valid bits and the latches are set together, and cleared together). -/
structure State.LatchesAgree (s : State) : Prop where
  /-- AV = 0: no ENCA since the last clear, so ADDR is at its reset value. -/
  addr_clear : s.status.av = false → s.addr = 0
  /-- LV = 0: no ENCL since the last clear, so N is at its reset value and LENERR is 0. -/
  count_clear : s.status.lv = false → s.n = 0 ∧ s.status.lenErr = false
  /-- DV = 0: no ENCD since the last clear, so MODE and V are at their reset values. -/
  data_clear : s.status.dv = false → s.mode = .writeNibble ∧ s.v = 0
  /-- LV = 1 and LENERR = 0: the latched count is a legal one (R55). -/
  count_legal : s.status.lv = true → s.status.lenErr = false → 1 ≤ s.n.toNat ∧ s.n.toNat ≤ 15
  /-- ACKERR = 1: a check was performed, so one of the valid bits is 1 (R59). -/
  ack_performed : s.status.ackErr = true →
    s.status.av = true ∨ s.status.lv = true ∨ s.status.dv = true

/-- "A claim about a legal command sequence should state ILLCMD = 0" (93_implementation_defined.md):
no error flag is raised. -/
def State.clean (s : State) : Bool := !s.status.any

/-- The document's `ProtocolDesync` as R79 maps it: "ACKERR or CSERR". -/
def State.protocolDesync (s : State) : Bool := s.status.ackErr || s.status.csErr

/-- The document's boundary rejection as R79 maps it: LENERR. -/
def State.boundaryRejected (s : State) : Bool := s.status.lenErr

/-- Two states that hold the same registers of R11 other than RESP, and agree on whether a reset edge
has been seen. -/
def State.sameOperands (s t : State) : Prop :=
  s.addr = t.addr ∧ s.n = t.n ∧ s.mode = t.mode ∧ s.v = t.v ∧ s.acc = t.acc ∧
    s.status = t.status ∧ s.resetSeen = t.resetSeen

end Sys2Proof.Machine
end

