-- ==== Sys2Proof/Certificates/Slice0/Obligations.lean ====
section
/-!
DEFINITION. The statements about the model, each with the rule of spec/ it formalises. The spec's
tables that several statements read are written out once, as numbers, in `Sys2Proof.Claims`.
-/

namespace Sys2Proof.Claims

open Sys2Proof.Machine

/-- `nib_i(A)` as a number, for i = 0..3: the nibble of weight 16^(3-i) (R8). -/
def nibNumber (i : Fin 4) (a : Half) : Nat := a.toNat / 16 ^ (3 - i.val) % 16

/-- `ackc(m)` by R49's table. -/
def ackConstant : EncMode → Nat
  | .writeNibble => 0x10
  | .setBit => 0x04
  | .clearBit => 0x0C

/-- `base(m)` by R48's table. -/
def baseConstant : EncMode → Nat
  | .writeNibble => 0x42
  | .setBit => 0x12
  | .clearBit => 0x32

/-- The number MODE holds for a mode (R11). -/
def modeNumber : EncMode → Nat
  | .writeNibble => 0
  | .setBit => 1
  | .clearBit => 2

/-- 1 for a set bit, 0 for a clear one. -/
def bit (b : Bool) : Nat := if b then 1 else 0

/-- STATUS as a number, by R14's bit positions. -/
def statusNumber (st : Status) : Nat :=
  bit st.ok + 2 * bit st.av + 4 * bit st.lv + 8 * bit st.dv + 16 * bit st.ackErr
    + 32 * bit st.csErr + 64 * bit st.lenErr + 128 * bit st.seqErr + 256 * bit st.illCmd
    + 512 * bit (st.ackErr || st.csErr || st.lenErr || st.seqErr || st.illCmd)

/-- The `sel` numbers of R18's table. -/
def selNumber : View → Nat
  | .status => 0x0
  | .addr => 0x1
  | .txa i => 0x2 + i.val
  | .exa i => 0x6 + i.val
  | .len => 0xA
  | .data => 0xB
  | .acc => 0xC
  | .cfg => 0xD
  | .csum => 0xE
  | .id => 0xF

/-- The values of R18's table, as numbers, with the formulas R17 names. -/
def viewNumber (s : State) : View → Nat
  | .status => statusNumber s.status
  | .addr => s.addr.toNat
  | .txa i => 0x82 + 4 * nibNumber i s.addr
  | .exa i => 16 * i.val + nibNumber i s.addr
  | .len => 256 * ((0x30 + s.n.toNat) % 256) + min (0xC2 + 4 * s.n.toNat) 0xFE
  | .data => 256 * (s.v.toNat + ackConstant s.mode) + (baseConstant s.mode + 4 * s.v.toNat)
  | .acc => s.acc.toNat
  | .cfg => 4096 * modeNumber s.mode + 256 * s.v.toNat + s.n.toNat
  | .csum => s.acc.toNat % 256
  | .id => 0x0007

/-- The word of each row of R38 with its free field filled, as a number. -/
def rowNumber : Instr → Nat
  | .nop => 0x000000
  | .clr => 0x100000
  | .enca a => 0x200000 + a.toNat
  | .encl n => 0x300000 + n.toNat
  | .encdW v => 0x400000 + v.toNat
  | .encdS v => 0x410000 + v.toNat
  | .encdC v => 0x420000 + v.toNat
  | .chka i rx => 0x500000 + 0x10000 * i.val + rx.toNat
  | .chkl rx => 0x600000 + rx.toNat
  | .chkd rx => 0x700000 + rx.toNat
  | .csadd b => 0x800000 + b.toNat
  | .cschk rx => 0x900000 + rx.toNat
  | .rdreg sel => 0xA00000 + 0x10000 * selNumber sel

/-- The word of a command, as R38's row and the command's own rule write it, is read as that command. -/
def ReadsWord (i : Instr) : Prop := decode (BitVec.ofNat 24 (rowNumber i)) = .ok i

/-- R39's list of the illegal words, on the fields `op`, `f` and `imm` of R36 as numbers. -/
def listedIllegal (op f imm : Nat) : Prop :=
  (0xB ≤ op) ∨
  ((op = 0x0 ∨ op = 0x1) ∧ (f ≠ 0 ∨ imm ≠ 0)) ∨
  (op = 0x2 ∧ f ≠ 0) ∨
  ((op = 0x3 ∨ op = 0x6 ∨ op = 0x7 ∨ op = 0x8 ∨ op = 0x9) ∧ (f ≠ 0 ∨ imm / 256 ≠ 0)) ∨
  (op = 0x4 ∧ (3 ≤ f ∨ imm / 16 ≠ 0)) ∨
  (op = 0x5 ∧ (f / 4 ≠ 0 ∨ imm / 256 ≠ 0)) ∨
  (op = 0xA ∧ imm ≠ 0)

/-- What R59's procedure does once the check is performed, with the expected byte `e` (a number), the
received byte `rx` and the flag `ERR` (`raised st` is `st` with it set): the outcome `o` from `s`.
Registers not written here keep their values. -/
def PerformsAs (o : Host.Outcome State Fault Refusal) (s : State) (e : Nat) (rx : Byte)
    (raised : Status → Status) : Prop :=
  (rx.toNat = e →
    o = .next { s with
      status := { s.status with ok := true }
      resp := BitVec.ofNat 32 (65536 * rx.toNat + 256 * e + 1), rspValid := true }) ∧
  (rx.toNat ≠ e →
    o = .next { s with
      status := raised { s.status with ok := false }
      resp := BitVec.ofNat 32 (65536 * rx.toNat + 256 * e), rspValid := true })

/-- What R59's procedure does with the valid bit `valid` before the comparison: not performed where it
is 0, else as `PerformsAs` says. -/
def ChecksAs (o : Host.Outcome State Fault Refusal) (s : State) (valid : Bool) (e : Nat) (rx : Byte)
    (raised : Status → Status) : Prop :=
  (valid = false →
    o = .next { s with
      status := { s.status with ok := false, seqErr := true }
      resp := BitVec.ofNat 32 (65536 * rx.toNat + 2), rspValid := true }) ∧
  (valid = true → PerformsAs o s e rx raised)

/-- The conditions of R78's table under which a legal command raises a cause. -/
def RaisesCause : Instr → State → Cause → Prop
  | .chka i rx, s, .ackErr => s.status.av = true ∧ rx.toNat ≠ 16 * i.val + nibNumber i s.addr
  | .chkl rx, s, .ackErr => s.status.lv = true ∧ rx.toNat ≠ (0x30 + s.n.toNat) % 256
  | .chkd rx, s, .ackErr => s.status.dv = true ∧ rx.toNat ≠ s.v.toNat + ackConstant s.mode
  | .cschk rx, s, .csErr => rx.toNat ≠ s.acc.toNat % 256
  | .encl n, _, .lenErr => n.toNat = 0 ∨ 15 < n.toNat
  | .chka _ _, s, .seqErr => s.status.av = false
  | .chkl _, s, .seqErr => s.status.lv = false
  | .chkd _, s, .seqErr => s.status.dv = false
  | _, _, _ => False

/-- A cause that the step from `s` to `t` raises for the first time since the last clear. -/
def NewlyRaised (c : Cause) (s t : State) : Prop :=
  s.status.raised c = false ∧ t.status.raised c = true

/-- The input samples by which a host offers words, one an edge. -/
def offered (ws : List CommandWord) : List PortCycle := ws.map (fun w => ⟨false, true, w⟩)

/-- The words `CSADD b` for a list of data bytes (R69's encoding). -/
def sumWords (bs : List Byte) : List CommandWord :=
  bs.map (fun b => BitVec.ofNat 24 (0x800000 + b.toNat))

/-- The sum of data bytes, without reduction. -/
def byteSum (bs : List Byte) : Nat := (bs.map BitVec.toNat).sum

end Sys2Proof.Claims

open Sys2Proof Sys2Proof.Machine Sys2Proof.Claims

/-! ### Encoding (30_encoding.md) -/

/-- Decoding the encoding of any command gives the command back, at every operand value (R36–R38). -/
def Obligations.DecodeEncodeRoundTrip : Prop :=
  ∀ i : Instr, decode (encode i) = .ok i

/-- R38. A word is legal exactly when it matches a row of the table; no word matches two rows; and the
command and operands it stands for are those of the row and its free field. -/
def Obligations.OpcodeMapDecides : Prop :=
  ∀ w : CommandWord,
    ((∃ i, decode w = .ok i) ↔ ∃ r ∈ opcodeTable, w &&& r.mask = r.value) ∧
    (∀ r ∈ opcodeTable, ∀ r' ∈ opcodeTable, w &&& r.mask = r.value → w &&& r'.mask = r'.value → r = r') ∧
    (∀ i r, decode w = .ok i → r ∈ opcodeTable → w &&& r.mask = r.value → r.mnemonic = i.mnemonic) ∧
    (∀ i, decode w = .ok i ↔ w.toNat = rowNumber i)

/-- R39. The illegal words are exactly the listed ones, and one of them is accepted with no effect but
ILLCMD and a zero response. -/
def Obligations.IllegalWordOnlyFlagsIllcmd : Prop :=
  ∀ w : CommandWord,
    ((∃ e, decode w = .error e) ↔
      listedIllegal (w.toNat / 2 ^ 20) (w.toNat / 2 ^ 16 % 16) (w.toNat % 2 ^ 16)) ∧
    (∀ e s, decode w = .error e →
      acceptWord w s = .next { s with
        status := { s.status with illCmd := true }, resp := 0, rspValid := true })

/-- R40. Every word is legal or illegal and has a defined effect; NOP is the only command with no effect
but a zero response. -/
def Obligations.EveryWordHasDefinedEffect : Prop :=
  (∀ w : CommandWord, ((∃ i, decode w = .ok i) ∨ ∃ e, decode w = .error e) ∧
    ∀ s, ∃ t, acceptWord w s = .next t) ∧
  (∀ i : Instr, (∀ s, exec i s = .next { s with resp := 0, rspValid := true }) ↔ i = .nop)

/-- Words written out from the bit patterns of R38, one of each family, decode to their commands. -/
def Obligations.WrittenWordsDecode : Prop :=
  decode 0x2005D8 = .ok (.enca 0x05D8) ∧
  decode 0x300003 = .ok (.encl 3) ∧
  decode 0x410000 = .ok (.encdS 0) ∧
  decode 0x52002D = .ok (.chka 2 0x2D) ∧
  decode 0x800034 = .ok (.csadd 0x34) ∧
  decode 0xAE0000 = .ok (.rdreg .csum) ∧
  decode 0x430005 = .error .reservedF

/-- R42, R37. A command's source form assembles to its word; a source line whose operands are out of
range (or of the wrong number) is an error and never a word. -/
def Obligations.AssemblerNeverTruncates : Prop :=
  (∀ i : Instr, assembleSource i.toSource = some (encode i)) ∧
  (∀ l : SourceLine, l.wellFormed = false → assembleSource l = none) ∧
  (∀ m xs w, assembleSource (.command m xs) = some w →
    ∃ i : Instr, i.toSource = .command m xs ∧ w = encode i)

/-! ### The byte formulas (40_encoders.md section 1, 2) -/

/-- R44. Each address byte is 0x82 + 4 · its nibble, lies in 0x82–0xBE, and depends on that nibble alone. -/
def Obligations.AddressByteFormula : Prop :=
  ∀ (i : Fin 4) (a : Half),
    (encA i a).toNat = 0x82 + 4 * nibNumber i a ∧
    0x82 ≤ (encA i a).toNat ∧ (encA i a).toNat ≤ 0xBE ∧
    (∀ b : Half, nibNumber i a = nibNumber i b → encA i a = encA i b)

/-- R45. The expected acknowledgement of an address byte, in both of the document's forms. -/
def Obligations.AddressAckFormula : Prop :=
  ∀ (i : Fin 4) (a : Half),
    (ackA i a).toNat = 16 * i.val + nibNumber i a ∧
    (ackA i a).toNat ≤ 0x3F ∧
    ((encA i a).toNat - 0x82) % 4 = 0 ∧
    (ackA i a).toNat = 16 * i.val + ((encA i a).toNat - 0x82) / 4 ∧
    (∀ s : State, s.exa i = ackA i s.addr)

/-- R46, R47. The length byte is clamped on the unwrapped sum; its acknowledgement is reduced mod 256. -/
def Obligations.LengthByteFormulas : Prop :=
  ∀ n : Byte,
    (encL n).toNat = min (0xC2 + 4 * n.toNat) 0xFE ∧
    (n.toNat ≤ 15 → (encL n).toNat = 0xC2 + 4 * n.toNat) ∧
    (15 ≤ n.toNat → (encL n).toNat = 0xFE) ∧
    (ackL n).toNat = (0x30 + n.toNat) % 256 ∧
    (1 ≤ n.toNat → n.toNat ≤ 15 → (ackL n).toNat = 0x30 + n.toNat)

/-- R48, R49. The data byte and its acknowledgement in each mode. -/
def Obligations.DataByteFormulas : Prop :=
  ∀ v : Nibble,
    (encD .writeNibble v).toNat = 0x42 + 4 * v.toNat ∧
    (encD .setBit v).toNat = 0x12 + 4 * v.toNat ∧
    (encD .clearBit v).toNat = 0x32 + 4 * v.toNat ∧
    (ackD .writeNibble v).toNat = v.toNat + 0x10 ∧
    (ackD .setBit v).toNat = v.toNat + 0x04 ∧
    (ackD .clearBit v).toNat = v.toNat + 0x0C

/-- R50. No wire byte equals 0x02 or 0x06; an expected acknowledgement can. -/
def Obligations.WireBytesAvoidResetBytes : Prop :=
  (∀ (i : Fin 4) (a : Half), encA i a ≠ 0x02 ∧ encA i a ≠ 0x06) ∧
  (∀ n : Byte, encL n ≠ 0x02 ∧ encL n ≠ 0x06) ∧
  (∀ (m : EncMode) (v : Nibble), encD m v ≠ 0x02 ∧ encD m v ≠ 0x06) ∧
  (∀ a : Half, a.toNat / 4096 = 2 → ackA 0 a = 0x02) ∧
  (∀ a : Half, a.toNat / 4096 = 6 → ackA 0 a = 0x06)

/-- R51. The four address bytes give the address back, so two addresses with the same bytes are equal. -/
def Obligations.AddressEncodingInvertible : Prop :=
  (∀ (i : Fin 4) (a : Half),
    ((encA i a).toNat - 0x82) % 4 = 0 ∧ ((encA i a).toNat - 0x82) / 4 = nibNumber i a) ∧
  (∀ a : Half,
    a.toNat = 4096 * (((encA 0 a).toNat - 0x82) / 4) + 256 * (((encA 1 a).toNat - 0x82) / 4)
      + 16 * (((encA 2 a).toNat - 0x82) / 4) + ((encA 3 a).toNat - 0x82) / 4) ∧
  (∀ a b : Half, (∀ i, encA i a = encA i b) → a = b)

/-- R52. The length byte determines a legal count and no count from 15 on; the acknowledgement
determines every count. -/
def Obligations.LengthByteInjectiveWhenLegal : Prop :=
  (∀ n : Byte, 1 ≤ n.toNat → n.toNat ≤ 15 →
    ((encL n).toNat - 0xC2) % 4 = 0 ∧ ((encL n).toNat - 0xC2) / 4 = n.toNat) ∧
  (∀ n m : Byte, 1 ≤ n.toNat → n.toNat ≤ 15 → 1 ≤ m.toNat → m.toNat ≤ 15 → encL n = encL m → n = m) ∧
  (∀ n : Byte, 15 ≤ n.toNat → encL n = 0xFE) ∧
  (∀ n m : Byte, ackL n = ackL m → n = m)

/-- R53. With k = v, v + 8 or v + 12 for S, C or W, the data byte is 0x12 + 4k and its
acknowledgement k + 4; the three kinds of wire byte lie in disjoint ranges; and with v ≤ 3 in the bit
modes the three modes do too. -/
def Obligations.DataModesAreOneCode : Prop :=
  (∀ (m : EncMode) (v : Nibble) (k : Nat),
    k = v.toNat + (match m with | .setBit => 0 | .clearBit => 8 | .writeNibble => 12) →
    (encD m v).toNat = 0x12 + 4 * k ∧ (ackD m v).toNat = k + 0x04 ∧
      (ackD m v).toNat = ((encD m v).toNat - 0x02) / 4) ∧
  (∀ (m : EncMode) (v : Nibble), 0x12 ≤ (encD m v).toNat ∧ (encD m v).toNat ≤ 0x7E) ∧
  (∀ (i : Fin 4) (a : Half), 0x82 ≤ (encA i a).toNat ∧ (encA i a).toNat ≤ 0xBE) ∧
  (∀ n : Byte, 0xC2 ≤ (encL n).toNat ∧ (encL n).toNat ≤ 0xFE) ∧
  (∀ v : Nibble, v.toNat ≤ 3 →
    0x12 ≤ (encD .setBit v).toNat ∧ (encD .setBit v).toNat ≤ 0x1E ∧
    0x04 ≤ (ackD .setBit v).toNat ∧ (ackD .setBit v).toNat ≤ 0x07 ∧
    0x32 ≤ (encD .clearBit v).toNat ∧ (encD .clearBit v).toNat ≤ 0x3E ∧
    0x0C ≤ (ackD .clearBit v).toNat ∧ (ackD .clearBit v).toNat ≤ 0x0F) ∧
  (∀ v : Nibble,
    0x42 ≤ (encD .writeNibble v).toNat ∧ (encD .writeNibble v).toNat ≤ 0x7E ∧
    0x10 ≤ (ackD .writeNibble v).toNat ∧ (ackD .writeNibble v).toNat ≤ 0x1F)

/-! ### The encoding commands (40_encoders.md section 3) -/

/-- R54. ENCA latches the address, sets AV and answers the four bytes, byte 0 on top; nothing else changes. -/
def Obligations.EncaLatchesAndAnswers : Prop :=
  ∀ (a : Half) (s : State), ReadsWord (.enca a) ∧ ∃ r : ResponseWord,
    exec (.enca a) s = .next { s with
      addr := a, status := { s.status with av := true }, resp := r, rspValid := true } ∧
    r.toNat = 2 ^ 24 * (0x82 + 4 * nibNumber 0 a) + 2 ^ 16 * (0x82 + 4 * nibNumber 1 a)
      + 2 ^ 8 * (0x82 + 4 * nibNumber 2 a) + (0x82 + 4 * nibNumber 3 a)

/-- R55. ENCL latches the count, sets LV, sets LENERR exactly for n = 0 or n > 15, and answers
{ackL, encL}; nothing else changes. -/
def Obligations.EnclLatchesAndFlags : Prop :=
  ∀ (n : Byte) (s : State), ReadsWord (.encl n) ∧ ∃ r : ResponseWord,
    exec (.encl n) s = .next { s with
      n := n
      status := { s.status with
        lv := true
        lenErr := if n.toNat = 0 ∨ 15 < n.toNat then true else s.status.lenErr }
      resp := r, rspValid := true } ∧
    r.toNat = 256 * ((0x30 + n.toNat) % 256) + min (0xC2 + 4 * n.toNat) 0xFE

/-- R56, R57, R58. Each ENCD latches its mode and value, sets DV and answers {ackD, encD}; nothing else
changes. -/
def Obligations.EncdLatchesAndAnswers : Prop :=
  ∀ (v : Nibble) (s : State),
    ReadsWord (.encdW v) ∧ ReadsWord (.encdS v) ∧ ReadsWord (.encdC v) ∧
    (∃ r : ResponseWord,
      exec (.encdW v) s = .next { s with
        mode := .writeNibble, v := v, status := { s.status with dv := true }, resp := r, rspValid := true } ∧
      r.toNat = 256 * (v.toNat + 0x10) + (0x42 + 4 * v.toNat)) ∧
    (∃ r : ResponseWord,
      exec (.encdS v) s = .next { s with
        mode := .setBit, v := v, status := { s.status with dv := true }, resp := r, rspValid := true } ∧
      r.toNat = 256 * (v.toNat + 0x04) + (0x12 + 4 * v.toNat)) ∧
    (∃ r : ResponseWord,
      exec (.encdC v) s = .next { s with
        mode := .clearBit, v := v, status := { s.status with dv := true }, resp := r, rspValid := true } ∧
      r.toNat = 256 * (v.toNat + 0x0C) + (0x32 + 4 * v.toNat))

/-! ### The checks (41_ack_check.md, 42_checksum.md) -/

/-- R62 with R59. CHKA runs the check procedure with AV, `16 * i + nib_i(ADDR)` and ACKERR. -/
def Obligations.ChkaRunsCheck : Prop :=
  ∀ (i : Fin 4) (rx : Byte) (s : State),
    ReadsWord (.chka i rx) ∧
    ChecksAs (exec (.chka i rx) s) s s.status.av (16 * i.val + nibNumber i s.addr) rx
      (fun st => { st with ackErr := true })

/-- R63 with R59. CHKL runs the check procedure with LV, `(0x30 + N) mod 256` and ACKERR. -/
def Obligations.ChklRunsCheck : Prop :=
  ∀ (rx : Byte) (s : State),
    ReadsWord (.chkl rx) ∧
    ChecksAs (exec (.chkl rx) s) s s.status.lv ((0x30 + s.n.toNat) % 256) rx
      (fun st => { st with ackErr := true })

/-- R64 with R59. CHKD runs the check procedure with DV, `V + ackc(MODE)` and ACKERR. -/
def Obligations.ChkdRunsCheck : Prop :=
  ∀ (rx : Byte) (s : State),
    ReadsWord (.chkd rx) ∧
    ChecksAs (exec (.chkd rx) s) s s.status.dv (s.v.toNat + ackConstant s.mode) rx
      (fun st => { st with ackErr := true })

/-- R70 with R59. CSCHK performs the check with no valid bit to ask for, on `ACC[7:0]` and CSERR. -/
def Obligations.CschkRunsCheck : Prop :=
  ∀ (rx : Byte) (s : State),
    ReadsWord (.cschk rx) ∧
    PerformsAs (exec (.cschk rx) s) s (s.acc.toNat % 256) rx
      (fun st => { st with csErr := true })

/-- R59, the procedure itself, for every valid bit, expected byte and error flag. -/
def Obligations.CheckProcedure : Prop :=
  ∀ (valid : Bool) (e rx : Byte) (c : Cause) (s : State),
    ChecksAs (.next (s.check valid e rx c)) s valid e.toNat rx (fun st => st.raise c)

/-- R60. The response of every check: 0x00, the received byte, the expected byte (0x00 when not
performed), zeros, SEQ, MATCH; and MATCH equals OK after the command. -/
def Obligations.CheckResponseLayout : Prop :=
  ∀ (valid : Bool) (e rx : Byte) (c : Cause) (s : State),
    let t := s.check valid e rx c
    t.resp.extractLsb' 24 8 = 0 ∧
    t.resp.extractLsb' 16 8 = rx ∧
    t.resp.extractLsb' 8 8 = (if valid then e else 0) ∧
    t.resp.extractLsb' 2 6 = 0 ∧
    t.resp.getLsbD 1 = !valid ∧
    t.resp.getLsbD 0 = (valid && rx == e) ∧
    t.resp.getLsbD 0 = t.status.ok

/-- R69. CSADD adds modulo 65536 and answers the new ACC; nothing else changes. -/
def Obligations.CsaddAccumulates : Prop :=
  ∀ (b : Byte) (s : State), ReadsWord (.csadd b) ∧ ∃ (acc : Half) (r : ResponseWord),
    exec (.csadd b) s = .next { s with acc := acc, resp := r, rspValid := true } ∧
    acc.toNat = (s.acc.toNat + b.toNat) % 65536 ∧ r.toNat = acc.toNat

/-! ### The control commands (43_control.md) and the views (10_state.md) -/

/-- R71. NOP writes a zero response and changes nothing else. -/
def Obligations.NopOnlyAnswersZero : Prop :=
  ReadsWord .nop ∧ ∀ s : State, exec .nop s = .next { s with resp := 0, rspValid := true }

/-- R72. CLR leaves every register at its reset value, whatever it held. -/
def Obligations.ClrWritesResetValues : Prop :=
  ReadsWord .clr ∧ ∀ s : State,
    exec .clr s = .next
      { addr := 0x0000, n := 0x00, mode := .writeNibble, v := 0x0, acc := 0x0000,
        status := { ok := false, av := false, lv := false, dv := false, ackErr := false,
                    csErr := false, lenErr := false, seqErr := false, illCmd := false },
        resp := 0, rspValid := true, resetSeen := s.resetSeen, inbox := s.inbox }

/-- R73 with R18. RDREG answers the selected view of the state before it, zero-extended, and changes
nothing else. -/
def Obligations.RdregAnswersView : Prop :=
  ∀ (sel : View) (s : State), ReadsWord (.rdreg sel) ∧ ∃ r : ResponseWord,
    exec (.rdreg sel) s = .next { s with resp := r, rspValid := true } ∧ r.toNat = viewNumber s sel

/-- R29. Reading a view has no side effect beyond RESP: reading it again gives the same value. -/
def Obligations.ViewsAreIdempotent : Prop :=
  ∀ (sel sel' : View) (s : State), ∃ t u : State,
    exec (.rdreg sel) s = .next t ∧ exec (.rdreg sel) t = .next t ∧
    exec (.rdreg sel') t = .next u ∧ exec (.rdreg sel') s = .next u

/-- R14, the layout of the STATUS view: the stored bits, ANY at bit 9, zeros above. -/
def Obligations.StatusViewLayout : Prop :=
  ∀ st : Status,
    st.word.getLsbD 0 = st.ok ∧ st.word.getLsbD 1 = st.av ∧ st.word.getLsbD 2 = st.lv ∧
    st.word.getLsbD 3 = st.dv ∧ (∀ c : Cause, st.word.getLsbD c.code = st.raised c) ∧
    (st.word.getLsbD 9 = true ↔ ∃ c : Cause, st.raised c = true) ∧
    (∀ k, 10 ≤ k → st.word.getLsbD k = false)

/-- R11. MODE never holds 3, seen where software can see it: bits 13:12 of the view CFG. It holds by the
type the model gives MODE, which is read from R11 (log entry 5). -/
def Obligations.ModeFieldNeverThree : Prop :=
  ∀ s : State, (s.view .cfg).extractLsb' 12 2 ≠ 3

/-- R17. The computed values are functions of the registers alone, with their values after reset. -/
def Obligations.ComputedValues : Prop :=
  (∀ (s : State) (i : Fin 4),
    (s.txa i).toNat = 0x82 + 4 * nibNumber i s.addr ∧
    (s.exa i).toNat = 16 * i.val + nibNumber i s.addr ∧
    s.txl.toNat = min (0xC2 + 4 * s.n.toNat) 0xFE ∧
    s.exl.toNat = (0x30 + s.n.toNat) % 256 ∧
    s.txd.toNat = baseConstant s.mode + 4 * s.v.toNat ∧
    s.exd.toNat = s.v.toNat + ackConstant s.mode ∧
    s.csum.toNat = s.acc.toNat % 256) ∧
  (∀ i : Fin 4, State.reset.txa i = 0x82 ∧ (State.reset.exa i).toNat = 16 * i.val) ∧
  State.reset.txl = 0xC2 ∧ State.reset.exl = 0x30 ∧ State.reset.txd = 0x42 ∧
  State.reset.exd = 0x10 ∧ State.reset.csum = 0x00

/-! ### Flags over the whole machine (10_state.md R15, 60_exceptions.md) -/

/-- R15. A sticky flag stays 1 under every word but CLR; OK is written by the check commands, each of
them, and by no other command but CLR (R14, R72; log entry 14). -/
def Obligations.StickyFlagsAndOk : Prop :=
  (∀ (w : CommandWord) (s t : State) (c : Cause), acceptWord w s = .next t →
    s.status.raised c = true → w ≠ 0x100000 → t.status.raised c = true) ∧
  (∀ (i : Instr) (s t : State), exec i s = .next t →
    (isCheckCommand i = true → t.status.ok = t.resp.getLsbD 0) ∧
    (isCheckCommand i = false → i ≠ .clr → t.status.ok = s.status.ok)) ∧
  (∀ (w : CommandWord) (e : IllegalWord) (s t : State), decode w = .error e →
    acceptWord w s = .next t → t.status.ok = s.status.ok)

/-- R80. One command raises at most one cause: an illegal word ILLCMD only, a check whose valid bit is 0
SEQERR and not ACKERR, ENCL only LENERR, CSCHK only CSERR; reset wins over an offered command. -/
def Obligations.AtMostOneCause : Prop :=
  (∀ (w : CommandWord) (s t : State) (c c' : Cause), acceptWord w s = .next t →
    NewlyRaised c s t → NewlyRaised c' s t → c = c') ∧
  (∀ (w : CommandWord) (e : IllegalWord) (s t : State) (c : Cause), decode w = .error e →
    acceptWord w s = .next t → NewlyRaised c s t → c = .illCmd) ∧
  (∀ (i : Fin 4) (rx : Byte) (s t : State), s.status.av = false → exec (.chka i rx) s = .next t →
    t.status.seqErr = true ∧ t.status.ackErr = s.status.ackErr) ∧
  (∀ (rx : Byte) (s t : State), s.status.lv = false → exec (.chkl rx) s = .next t →
    t.status.seqErr = true ∧ t.status.ackErr = s.status.ackErr) ∧
  (∀ (rx : Byte) (s t : State), s.status.dv = false → exec (.chkd rx) s = .next t →
    t.status.seqErr = true ∧ t.status.ackErr = s.status.ackErr) ∧
  (∀ (n : Byte) (s t : State) (c : Cause), exec (.encl n) s = .next t →
    NewlyRaised c s t → c = .lenErr) ∧
  (∀ (rx : Byte) (s t : State) (c : Cause), exec (.cschk rx) s = .next t →
    NewlyRaised c s t → c = .csErr) ∧
  (∀ (p : PortCycle) (s : State), p.rst = true → clockEdge p s = .next { State.reset with inbox := s.inbox })

/-- R78. After an accepted command a cause's flag is 1 exactly when it was 1 before (and the command is not
CLR) or the command raised it, under the conditions of R78's table; an illegal word raises ILLCMD. -/
def Obligations.CausesRaisedExactlyWhen : Prop :=
  (∀ (i : Instr) (s : State) (c : Cause), ∃ t, exec i s = .next t ∧
    (t.status.raised c = true ↔
      (i ≠ .clr ∧ s.status.raised c = true) ∨ RaisesCause i s c)) ∧
  (∀ (w : CommandWord) (e : IllegalWord) (s : State) (c : Cause), decode w = .error e →
    ∃ t, acceptWord w s = .next t ∧
      (t.status.raised c = true ↔ s.status.raised c = true ∨ c = .illCmd))

/-- R77. Once a reset edge has been seen every step has a next state: the TCE never traps, halts or
refuses a command. That a step asks for a reset edge first is the model's form of R87 (log entry 3). -/
def Obligations.StepNeverStops : Prop :=
  ∀ s : State, s.resetSeen = true → ∃ t, step s = .next t ∧ t.resetSeen = true

/-! ### Clock edges, reset and runs (70_reset_and_hazards.md) -/

/-- R94, R9. At an edge that offers a word which decodes to a command, `step` is `exec` of that command on
the state with the input sample taken. The list of samples and the reset seen are the model's (log
entries 1 and 3). -/
def Obligations.StepRunsDecodedCommand : Prop :=
  ∀ (s : State) (w : CommandWord) (i : Instr) (rest : List PortCycle),
    s.inbox = ⟨false, true, w⟩ :: rest → s.resetSeen = true → decode w = .ok i →
    step s = exec i { s with inbox := rest }

/-- R94. A command is accepted exactly at an edge with `cmd_valid` = 1 and `rst` = 0; `rsp_valid` is 1
after such an edge and after no other, and `rsp_word` shows RESP; an edge that accepts nothing keeps
every register. That an empty `inbox` means nothing is driven is the model's choice (log entry 1), and so is
holding `rsp_valid` in the state (log entry 2). -/
def Obligations.AcceptingEdges : Prop :=
  (∀ (s : State) (w : CommandWord) (rest : List PortCycle), s.inbox = ⟨false, true, w⟩ :: rest →
    s.resetSeen = true → ∃ t, step s = .next t ∧ acceptWord w { s with inbox := rest } = .next t ∧
      t.outputs = (true, t.resp)) ∧
  (∀ (s t : State) (p : PortCycle) (rest : List PortCycle), s.inbox = p :: rest → step s = .next t →
    t.inbox = rest ∧ (t.rspValid = true ↔ p.cmdValid = true ∧ p.rst = false)) ∧
  (∀ (s : State) (w : CommandWord) (rest : List PortCycle), s.inbox = ⟨false, false, w⟩ :: rest →
    step s = .next { s with rspValid := false, inbox := rest }) ∧
  (∀ s : State, s.inbox = [] → step s = .next { s with rspValid := false })

/-- R86. A reset edge gives every register its reset value from any state, accepts no command, and shows
`rsp_valid` = 0; `cmd_ready` is 0 meanwhile. The fields `resetSeen` and `inbox` are the model's own (log
entries 1 and 3). -/
def Obligations.ResetEdgeClearsEverything : Prop :=
  ∀ (s : State) (valid : Bool) (w : CommandWord) (rest : List PortCycle),
    s.inbox = ⟨true, valid, w⟩ :: rest →
    cmdReady ⟨true, valid, w⟩ = false ∧
    step s = .next
      { addr := 0x0000, n := 0x00, mode := .writeNibble, v := 0x0, acc := 0x0000,
        status := { ok := false, av := false, lv := false, dv := false, ackErr := false,
                    csErr := false, lenErr := false, seqErr := false, illCmd := false },
        resp := 0x00000000, rspValid := false, resetSeen := true, inbox := rest }

/-- R88. One reset edge is enough: from any state, the power-up state among them, the first edge with
`rst` = 0 after a reset edge accepts a command, on the reset state. -/
def Obligations.OneResetEdgeIsEnough : Prop :=
  ∀ (s : State) (p : PortCycle) (w : CommandWord) (rest : List PortCycle),
    s.inbox = p :: ⟨false, true, w⟩ :: rest → p.rst = true →
    Host.Core.run Sys2Proof.core 2 s = acceptWord w { State.reset with inbox := rest }

/-- R87 as the model takes it (log entries 3 and 4): a command offered before the first reset edge is
refused by name, and the power-up state is one in which no reset edge has been seen. -/
def Obligations.NoMeaningBeforeReset : Prop :=
  (∀ (s : State) (w : CommandWord) (rest : List PortCycle),
    s.resetSeen = false → s.inbox = ⟨false, true, w⟩ :: rest → step s = .refused .commandBeforeReset) ∧
  (∀ inputs : List PortCycle, (State.powerUp inputs).resetSeen = false)

/-- R31, R9. A run of the port over offered words is the commands taken one at a time in that order, each
on the state the one before left: nothing else enters. -/
def Obligations.PortRunIsCommandsInOrder : Prop :=
  ∀ (ws : List CommandWord) (rest : List PortCycle) (s : State), s.resetSeen = true →
    Host.Core.run Sys2Proof.core ws.length { s with inbox := offered ws ++ rest } =
      acceptAll ws { s with inbox := rest }

/-- R9. The next registers and the response of an accepted word depend on the registers and the word
alone, and not on the old RESP or on the inputs to come. -/
def Obligations.StepDependsOnOperandsOnly : Prop :=
  ∀ (w : CommandWord) (s t : State), s.sameOperands t →
    ∃ s' t' : State, acceptWord w s = .next s' ∧ acceptWord w t = .next t' ∧
      s'.sameOperands t' ∧ s'.resp = t'.resp ∧ s'.rspValid = t'.rspValid ∧
      s'.inbox = s.inbox ∧ t'.inbox = t.inbox

/-- R67. After CLR or reset and then CSADD of any bytes, ACC is their sum mod 65536 and CSUM their sum mod
256; ACC is the sum itself up to 257 bytes, and at most 3825 up to 15. -/
def Obligations.AccumulatorHoldsRunningSum : Prop :=
  ∀ (bs : List Byte) (p : PortCycle) (rest : List PortCycle) (s : State),
    (p.rst = true ∨ (p = ⟨false, true, 0x100000⟩ ∧ s.resetSeen = true)) →
    s.inbox = p :: (offered (sumWords bs) ++ rest) →
    ∃ t : State, Host.Core.run Sys2Proof.core (bs.length + 1) s = .next t ∧ t.inbox = rest ∧
      t.acc.toNat = byteSum bs % 65536 ∧
      t.csum.toNat = byteSum bs % 256 ∧
      t.csum = checksum bs ∧
      (bs.length ≤ 257 → t.acc.toNat = byteSum bs) ∧
      (bs.length ≤ 15 → t.acc.toNat ≤ 3825)

/-- R65, R70. From there CSCHK accepts exactly the byte that is the sum of the data bytes mod 256. -/
def Obligations.VerifierAcceptsExactlyTheSum : Prop :=
  ∀ (bs : List Byte) (rx : Byte) (rest : List PortCycle) (s : State), s.resetSeen = true →
    s.inbox = ⟨false, true, 0x100000⟩ :: (offered (sumWords bs)
      ++ ⟨false, true, BitVec.ofNat 24 (0x900000 + rx.toNat)⟩ :: rest) →
    ∃ t : State, Host.Core.run Sys2Proof.core (bs.length + 2) s = .next t ∧
      (t.status.ok = true ↔ rx.toNat = byteSum bs % 256) ∧
      (t.status.csErr = true ↔ rx.toNat ≠ byteSum bs % 256)

/-! ### The invariant of the latches -/

/-- The reset state has the invariant. -/
def Obligations.LatchesAgreeAtReset : Prop :=
  State.reset.LatchesAgree

/-- Every step keeps the invariant, from every state that has it. -/
def Obligations.StepKeepsLatchesAgree : Prop :=
  ∀ s t : State, s.LatchesAgree → step s = .next t → t.LatchesAgree
end

