-- ==== Sys2Proof/Laws/Codec.lean ====
section
/-!
SUPPORT. The byte formulas and the packings as numbers: one lemma per function, which later proofs cite
instead of unfolding it.
-/

namespace Sys2Proof.Machine

theorem nib_lt (i : Fin 4) (a : Half) : (nib i a).toNat < 16 := (nib i a).isLt

/-- Nibble i of an address as a number: the digit of weight 16^(3-i). -/
theorem nib_toNat (i : Fin 4) (a : Half) : (nib i a).toNat = a.toNat / 16 ^ (3 - i.val) % 16 := by
  have h : 2 ^ (12 - 4 * i.val) = 16 ^ (3 - i.val) := by revert i; decide
  simp [nib, BitVec.extractLsb'_toNat, Nat.shiftRight_eq_div_pow, h]

theorem encA_toNat (i : Fin 4) (a : Half) : (encA i a).toNat = 0x82 + 4 * (nib i a).toNat := by
  have := nib_lt i a
  simp only [encA, Config.addrBase, BitVec.toNat_ofNat]
  omega

theorem ackA_toNat (i : Fin 4) (a : Half) : (ackA i a).toNat = 16 * i.val + (nib i a).toNat := by
  have := nib_lt i a
  have := i.isLt
  simp only [ackA, BitVec.toNat_ofNat]
  omega

theorem encL_toNat (n : Byte) : (encL n).toNat = min (0xC2 + 4 * n.toNat) 0xFE := by
  simp only [encL, Config.lenBase, Config.lenMax, BitVec.toNat_ofNat]
  omega

theorem ackL_toNat (n : Byte) : (ackL n).toNat = (0x30 + n.toNat) % 256 := by
  simp only [ackL, Config.lenAck, BitVec.toNat_ofNat]
  omega

theorem encD_toNat (m : EncMode) (v : Nibble) : (encD m v).toNat = modeBase m + 4 * v.toNat := by
  have := v.isLt
  cases m <;>
    simp only [encD, modeBase, Config.wBase, Config.sBase, Config.cBase, BitVec.toNat_ofNat] <;> omega

theorem ackD_toNat (m : EncMode) (v : Nibble) : (ackD m v).toNat = v.toNat + modeAck m := by
  have := v.isLt
  cases m <;>
    simp only [ackD, modeAck, Config.wAck, Config.sAck, Config.cAck, BitVec.toNat_ofNat] <;> omega

theorem checksum_toNat (bs : List Byte) : (checksum bs).toNat = (bs.map BitVec.toNat).sum % 256 := by
  simp only [checksum, BitVec.toNat_ofNat]
  omega

theorem csum_toNat (s : State) : s.csum.toNat = s.acc.toNat % 256 := by
  simp [State.csum, BitVec.extractLsb'_toNat]

/-- Putting `x` above `y` as a number. -/
theorem append_toNat {n m : Nat} (x : BitVec n) (y : BitVec m) :
    (x ++ y).toNat = x.toNat * 2 ^ m + y.toNat := by
  rw [BitVec.toNat_append, ← Nat.shiftLeft_add_eq_or_of_lt y.isLt, Nat.shiftLeft_eq]

theorem packPair_toNat (ack wire : Byte) :
    (packPair ack wire).toNat = 256 * ack.toNat + wire.toNat := by
  rw [packPair, append_toNat]; omega

theorem packTelegram_toNat (a : Half) :
    (packTelegram a).toNat = 2 ^ 24 * (encA 0 a).toNat + 2 ^ 16 * (encA 1 a).toNat
      + 2 ^ 8 * (encA 2 a).toNat + (encA 3 a).toNat := by
  simp only [packTelegram, append_toNat]; omega

theorem packCheck_toNat (rx exp : Byte) (seq hit : Bool) :
    (packCheck rx exp seq hit).toNat =
      65536 * rx.toNat + 256 * exp.toNat + 2 * seq.toNat + hit.toNat := by
  simp only [packCheck, append_toNat, BitVec.toNat_ofNat, BitVec.toNat_ofBool]; omega

/-- A pair or a view in a response word keeps its value: `zext_32`. -/
theorem zext_response_toNat (x : Half) : (x.setWidth 32).toNat = x.toNat := by
  have := x.isLt
  simp only [BitVec.toNat_setWidth]; omega

end Sys2Proof.Machine
end

