-- ==== Sys2Proof/Laws/Encoding.lean ====
section
/-!
SUPPORT. Fields of a packed word, the view select, the operand forms of the decoder said once each, and
the well-formedness of every command.
-/

namespace Sys2Proof

/-! ### Fields -/

theorem packFields_toNat (op f : Nibble) (imm : Half) :
    (packFields op f imm).toNat = 2 ^ 20 * op.toNat + 2 ^ 16 * f.toNat + imm.toNat := by
  simp only [packFields, Machine.append_toNat]; omega

theorem fieldOp_toNat (w : CommandWord) : (fieldOp w).toNat = w.toNat / 2 ^ 20 := by
  have := w.isLt
  simp only [fieldOp, BitVec.extractLsb'_toNat, Nat.shiftRight_eq_div_pow]; omega

theorem fieldF_toNat (w : CommandWord) : (fieldF w).toNat = w.toNat / 2 ^ 16 % 16 := by
  simp only [fieldF, BitVec.extractLsb'_toNat, Nat.shiftRight_eq_div_pow]

theorem fieldImm_toNat (w : CommandWord) : (fieldImm w).toNat = w.toNat % 2 ^ 16 := by
  simp only [fieldImm, BitVec.extractLsb'_toNat, Nat.shiftRight_eq_div_pow]; omega

@[simp] theorem fieldOp_packFields (op f : Nibble) (imm : Half) : fieldOp (packFields op f imm) = op := by
  have := op.isLt; have := f.isLt; have := imm.isLt
  apply BitVec.eq_of_toNat_eq
  rw [fieldOp_toNat, packFields_toNat]; omega

@[simp] theorem fieldF_packFields (op f : Nibble) (imm : Half) : fieldF (packFields op f imm) = f := by
  have := op.isLt; have := f.isLt; have := imm.isLt
  apply BitVec.eq_of_toNat_eq
  rw [fieldF_toNat, packFields_toNat]; omega

@[simp] theorem fieldImm_packFields (op f : Nibble) (imm : Half) : fieldImm (packFields op f imm) = imm := by
  have := op.isLt; have := f.isLt; have := imm.isLt
  apply BitVec.eq_of_toNat_eq
  rw [fieldImm_toNat, packFields_toNat]; omega

/-- A word is its three fields (R36). -/
theorem packFields_fields (w : CommandWord) : packFields (fieldOp w) (fieldF w) (fieldImm w) = w := by
  have := w.isLt
  apply BitVec.eq_of_toNat_eq
  rw [packFields_toNat, fieldOp_toNat, fieldF_toNat, fieldImm_toNat]; omega

/-! ### The view select (R18) -/

@[simp] theorem viewOfCode_code (sel : View) : viewOfCode sel.code = sel := by
  cases sel with
  | txa i => revert i; decide
  | exa i => revert i; decide
  | _ => rfl

@[simp] theorem code_viewOfCode (sel : Nibble) : (viewOfCode sel).code = sel := by
  revert sel; decide

/-! ### The operand forms: when each reads a command, and which -/

theorem decodeNone_ok_iff (f : Nibble) (imm : Half) (i j : Instr) :
    decodeNone f imm i = .ok j ↔ f = 0 ∧ imm = 0 ∧ i = j := by
  unfold decodeNone; split_ifs <;> simp_all

theorem decodeImm16_ok_iff (f : Nibble) (imm : Half) (mk : Half → Instr) (j : Instr) :
    decodeImm16 f imm mk = .ok j ↔ f = 0 ∧ mk imm = j := by
  unfold decodeImm16; split_ifs <;> simp_all

theorem decodeImm8_ok_iff (f : Nibble) (imm : Half) (mk : Byte → Instr) (j : Instr) :
    decodeImm8 f imm mk = .ok j ↔
      f = 0 ∧ imm.extractLsb' 8 8 = 0 ∧ mk (imm.extractLsb' 0 8) = j := by
  unfold decodeImm8; split_ifs <;> simp_all

theorem decodeImm4_ok_iff (imm : Half) (mk : Nibble → Instr) (j : Instr) :
    decodeImm4 imm mk = .ok j ↔ imm.extractLsb' 4 12 = 0 ∧ mk (imm.extractLsb' 0 4) = j := by
  unfold decodeImm4; split_ifs <;> simp_all

theorem decodeChka_ok_iff (f : Nibble) (imm : Half) (j : Instr) :
    decodeChka f imm = .ok j ↔
      f.extractLsb' 2 2 = 0 ∧ imm.extractLsb' 8 8 = 0 ∧
        Instr.chka (f.extractLsb' 0 2).toFin (imm.extractLsb' 0 8) = j := by
  unfold decodeChka; split_ifs <;> simp_all

theorem decodeRdreg_ok_iff (f : Nibble) (imm : Half) (j : Instr) :
    decodeRdreg f imm = .ok j ↔ imm = 0 ∧ Instr.rdreg (viewOfCode f) = j := by
  unfold decodeRdreg; split_ifs <;> simp_all

/-! ### The operand of a zero-extended immediate -/

theorem low8_of_zext (b : Byte) : (b.setWidth 16).extractLsb' 0 8 = b := by
  apply BitVec.eq_of_toNat_eq
  have := b.isLt
  simp only [BitVec.extractLsb'_toNat, Nat.shiftRight_eq_div_pow, BitVec.toNat_setWidth]; omega

theorem high8_of_zext (b : Byte) : (b.setWidth 16).extractLsb' 8 8 = 0 := by
  apply BitVec.eq_of_toNat_eq
  have := b.isLt
  simp only [BitVec.extractLsb'_toNat, Nat.shiftRight_eq_div_pow, BitVec.toNat_setWidth,
    BitVec.ofNat_eq_ofNat, BitVec.toNat_ofNat]; omega

theorem low4_of_zext (v : Nibble) : (v.setWidth 16).extractLsb' 0 4 = v := by
  apply BitVec.eq_of_toNat_eq
  have := v.isLt
  simp only [BitVec.extractLsb'_toNat, Nat.shiftRight_eq_div_pow, BitVec.toNat_setWidth]; omega

theorem high12_of_zext (v : Nibble) : (v.setWidth 16).extractLsb' 4 12 = 0 := by
  apply BitVec.eq_of_toNat_eq
  have := v.isLt
  simp only [BitVec.extractLsb'_toNat, Nat.shiftRight_eq_div_pow, BitVec.toNat_setWidth,
    BitVec.ofNat_eq_ofNat, BitVec.toNat_ofNat]; omega

/-! ### Well-formedness -/

/-- Every command is well formed: its operands carry their widths (R37). -/
theorem wellFormed_of_instr (i : Instr) : i.wellFormed = true := by
  cases i with
  | rdreg sel =>
    simpa [Instr.wellFormed, Instr.toSource, SourceLine.wellFormed, Mnemonic.operandWidths,
      operandsFit] using sel.code.isLt
  | chka idx rx =>
    simpa [Instr.wellFormed, Instr.toSource, SourceLine.wellFormed, Mnemonic.operandWidths,
      operandsFit] using And.intro idx.isLt rx.isLt
  | nop => rfl
  | clr => rfl
  | enca x | encl x | encdW x | encdS x | encdC x | chkl x | chkd x | csadd x | cschk x =>
    simpa [Instr.wellFormed, Instr.toSource, SourceLine.wellFormed, Mnemonic.operandWidths,
      operandsFit] using x.isLt

end Sys2Proof
end

