-- ==== Sys2Proof/Laws/State.lean ====
section
/-!
SUPPORT. What each register update leaves in each field: one lemma per field per update of the shared
operations, so that no proof unfolds a record update.
-/

namespace Sys2Proof.Machine

/-! ### `State.respond` -/

@[simp] theorem respond_addr (s : State) (r : ResponseWord) : (s.respond r).addr = s.addr := rfl
@[simp] theorem respond_n (s : State) (r : ResponseWord) : (s.respond r).n = s.n := rfl
@[simp] theorem respond_mode (s : State) (r : ResponseWord) : (s.respond r).mode = s.mode := rfl
@[simp] theorem respond_v (s : State) (r : ResponseWord) : (s.respond r).v = s.v := rfl
@[simp] theorem respond_acc (s : State) (r : ResponseWord) : (s.respond r).acc = s.acc := rfl
@[simp] theorem respond_status (s : State) (r : ResponseWord) : (s.respond r).status = s.status := rfl
@[simp] theorem respond_resp (s : State) (r : ResponseWord) : (s.respond r).resp = r := rfl
@[simp] theorem respond_rspValid (s : State) (r : ResponseWord) : (s.respond r).rspValid = true := rfl
@[simp] theorem respond_resetSeen (s : State) (r : ResponseWord) : (s.respond r).resetSeen = s.resetSeen := rfl
@[simp] theorem respond_inbox (s : State) (r : ResponseWord) : (s.respond r).inbox = s.inbox := rfl

/-! ### `State.raise` -/

@[simp] theorem raise_addr (s : State) (c : Cause) : (s.raise c).addr = s.addr := rfl
@[simp] theorem raise_n (s : State) (c : Cause) : (s.raise c).n = s.n := rfl
@[simp] theorem raise_mode (s : State) (c : Cause) : (s.raise c).mode = s.mode := rfl
@[simp] theorem raise_v (s : State) (c : Cause) : (s.raise c).v = s.v := rfl
@[simp] theorem raise_acc (s : State) (c : Cause) : (s.raise c).acc = s.acc := rfl
@[simp] theorem raise_status (s : State) (c : Cause) : (s.raise c).status = s.status.raise c := rfl
@[simp] theorem raise_resp (s : State) (c : Cause) : (s.raise c).resp = s.resp := rfl
@[simp] theorem raise_rspValid (s : State) (c : Cause) : (s.raise c).rspValid = s.rspValid := rfl
@[simp] theorem raise_resetSeen (s : State) (c : Cause) : (s.raise c).resetSeen = s.resetSeen := rfl
@[simp] theorem raise_inbox (s : State) (c : Cause) : (s.raise c).inbox = s.inbox := rfl

/-! ### `State.setOk` -/

@[simp] theorem setOk_addr (s : State) (b : Bool) : (s.setOk b).addr = s.addr := rfl
@[simp] theorem setOk_n (s : State) (b : Bool) : (s.setOk b).n = s.n := rfl
@[simp] theorem setOk_mode (s : State) (b : Bool) : (s.setOk b).mode = s.mode := rfl
@[simp] theorem setOk_v (s : State) (b : Bool) : (s.setOk b).v = s.v := rfl
@[simp] theorem setOk_acc (s : State) (b : Bool) : (s.setOk b).acc = s.acc := rfl
@[simp] theorem setOk_status (s : State) (b : Bool) : (s.setOk b).status = { s.status with ok := b } := rfl
@[simp] theorem setOk_resp (s : State) (b : Bool) : (s.setOk b).resp = s.resp := rfl
@[simp] theorem setOk_rspValid (s : State) (b : Bool) : (s.setOk b).rspValid = s.rspValid := rfl
@[simp] theorem setOk_resetSeen (s : State) (b : Bool) : (s.setOk b).resetSeen = s.resetSeen := rfl
@[simp] theorem setOk_inbox (s : State) (b : Bool) : (s.setOk b).inbox = s.inbox := rfl

/-! ### `State.latchAddr` -/

@[simp] theorem latchAddr_addr (s : State) (a : Half) : (s.latchAddr a).addr = a := rfl
@[simp] theorem latchAddr_n (s : State) (a : Half) : (s.latchAddr a).n = s.n := rfl
@[simp] theorem latchAddr_mode (s : State) (a : Half) : (s.latchAddr a).mode = s.mode := rfl
@[simp] theorem latchAddr_v (s : State) (a : Half) : (s.latchAddr a).v = s.v := rfl
@[simp] theorem latchAddr_acc (s : State) (a : Half) : (s.latchAddr a).acc = s.acc := rfl
@[simp] theorem latchAddr_status (s : State) (a : Half) : (s.latchAddr a).status = { s.status with av := true } := rfl
@[simp] theorem latchAddr_resp (s : State) (a : Half) : (s.latchAddr a).resp = s.resp := rfl
@[simp] theorem latchAddr_rspValid (s : State) (a : Half) : (s.latchAddr a).rspValid = s.rspValid := rfl
@[simp] theorem latchAddr_resetSeen (s : State) (a : Half) : (s.latchAddr a).resetSeen = s.resetSeen := rfl
@[simp] theorem latchAddr_inbox (s : State) (a : Half) : (s.latchAddr a).inbox = s.inbox := rfl

/-! ### `State.latchCount` -/

@[simp] theorem latchCount_addr (s : State) (n : Byte) : (s.latchCount n).addr = s.addr := rfl
@[simp] theorem latchCount_n (s : State) (n : Byte) : (s.latchCount n).n = n := rfl
@[simp] theorem latchCount_mode (s : State) (n : Byte) : (s.latchCount n).mode = s.mode := rfl
@[simp] theorem latchCount_v (s : State) (n : Byte) : (s.latchCount n).v = s.v := rfl
@[simp] theorem latchCount_acc (s : State) (n : Byte) : (s.latchCount n).acc = s.acc := rfl
@[simp] theorem latchCount_status (s : State) (n : Byte) : (s.latchCount n).status = { s.status with lv := true } := rfl
@[simp] theorem latchCount_resp (s : State) (n : Byte) : (s.latchCount n).resp = s.resp := rfl
@[simp] theorem latchCount_rspValid (s : State) (n : Byte) : (s.latchCount n).rspValid = s.rspValid := rfl
@[simp] theorem latchCount_resetSeen (s : State) (n : Byte) : (s.latchCount n).resetSeen = s.resetSeen := rfl
@[simp] theorem latchCount_inbox (s : State) (n : Byte) : (s.latchCount n).inbox = s.inbox := rfl

/-! ### `State.latchData` -/

@[simp] theorem latchData_addr (s : State) (m : EncMode) (v : Nibble) : (s.latchData m v).addr = s.addr := rfl
@[simp] theorem latchData_n (s : State) (m : EncMode) (v : Nibble) : (s.latchData m v).n = s.n := rfl
@[simp] theorem latchData_mode (s : State) (m : EncMode) (v : Nibble) : (s.latchData m v).mode = m := rfl
@[simp] theorem latchData_v (s : State) (m : EncMode) (v : Nibble) : (s.latchData m v).v = v := rfl
@[simp] theorem latchData_acc (s : State) (m : EncMode) (v : Nibble) : (s.latchData m v).acc = s.acc := rfl
@[simp] theorem latchData_status (s : State) (m : EncMode) (v : Nibble) : (s.latchData m v).status = { s.status with dv := true } := rfl
@[simp] theorem latchData_resp (s : State) (m : EncMode) (v : Nibble) : (s.latchData m v).resp = s.resp := rfl
@[simp] theorem latchData_rspValid (s : State) (m : EncMode) (v : Nibble) : (s.latchData m v).rspValid = s.rspValid := rfl
@[simp] theorem latchData_resetSeen (s : State) (m : EncMode) (v : Nibble) : (s.latchData m v).resetSeen = s.resetSeen := rfl
@[simp] theorem latchData_inbox (s : State) (m : EncMode) (v : Nibble) : (s.latchData m v).inbox = s.inbox := rfl

/-! ### `State.clear` -/

@[simp] theorem clear_addr (s : State) : (s.clear).addr = 0 := rfl
@[simp] theorem clear_n (s : State) : (s.clear).n = 0 := rfl
@[simp] theorem clear_mode (s : State) : (s.clear).mode = .writeNibble := rfl
@[simp] theorem clear_v (s : State) : (s.clear).v = 0 := rfl
@[simp] theorem clear_acc (s : State) : (s.clear).acc = 0 := rfl
@[simp] theorem clear_status (s : State) : (s.clear).status = Status.reset := rfl
@[simp] theorem clear_resp (s : State) : (s.clear).resp = s.resp := rfl
@[simp] theorem clear_rspValid (s : State) : (s.clear).rspValid = s.rspValid := rfl
@[simp] theorem clear_resetSeen (s : State) : (s.clear).resetSeen = s.resetSeen := rfl
@[simp] theorem clear_inbox (s : State) : (s.clear).inbox = s.inbox := rfl

/-! ### `State.resetEdge` -/

@[simp] theorem resetEdge_addr (s : State) : (s.resetEdge).addr = 0 := rfl
@[simp] theorem resetEdge_n (s : State) : (s.resetEdge).n = 0 := rfl
@[simp] theorem resetEdge_mode (s : State) : (s.resetEdge).mode = .writeNibble := rfl
@[simp] theorem resetEdge_v (s : State) : (s.resetEdge).v = 0 := rfl
@[simp] theorem resetEdge_acc (s : State) : (s.resetEdge).acc = 0 := rfl
@[simp] theorem resetEdge_status (s : State) : (s.resetEdge).status = Status.reset := rfl
@[simp] theorem resetEdge_resp (s : State) : (s.resetEdge).resp = 0 := rfl
@[simp] theorem resetEdge_rspValid (s : State) : (s.resetEdge).rspValid = false := rfl
@[simp] theorem resetEdge_resetSeen (s : State) : (s.resetEdge).resetSeen = true := rfl
@[simp] theorem resetEdge_inbox (s : State) : (s.resetEdge).inbox = s.inbox := rfl

/-! ### `State.idleEdge` -/

@[simp] theorem idleEdge_addr (s : State) : (s.idleEdge).addr = s.addr := rfl
@[simp] theorem idleEdge_n (s : State) : (s.idleEdge).n = s.n := rfl
@[simp] theorem idleEdge_mode (s : State) : (s.idleEdge).mode = s.mode := rfl
@[simp] theorem idleEdge_v (s : State) : (s.idleEdge).v = s.v := rfl
@[simp] theorem idleEdge_acc (s : State) : (s.idleEdge).acc = s.acc := rfl
@[simp] theorem idleEdge_status (s : State) : (s.idleEdge).status = s.status := rfl
@[simp] theorem idleEdge_resp (s : State) : (s.idleEdge).resp = s.resp := rfl
@[simp] theorem idleEdge_rspValid (s : State) : (s.idleEdge).rspValid = false := rfl
@[simp] theorem idleEdge_resetSeen (s : State) : (s.idleEdge).resetSeen = s.resetSeen := rfl
@[simp] theorem idleEdge_inbox (s : State) : (s.idleEdge).inbox = s.inbox := rfl

/-! ### `State.takeInput` -/

@[simp] theorem takeInput_addr (s : State) : (s.takeInput).addr = s.addr := rfl
@[simp] theorem takeInput_n (s : State) : (s.takeInput).n = s.n := rfl
@[simp] theorem takeInput_mode (s : State) : (s.takeInput).mode = s.mode := rfl
@[simp] theorem takeInput_v (s : State) : (s.takeInput).v = s.v := rfl
@[simp] theorem takeInput_acc (s : State) : (s.takeInput).acc = s.acc := rfl
@[simp] theorem takeInput_status (s : State) : (s.takeInput).status = s.status := rfl
@[simp] theorem takeInput_resp (s : State) : (s.takeInput).resp = s.resp := rfl
@[simp] theorem takeInput_rspValid (s : State) : (s.takeInput).rspValid = s.rspValid := rfl
@[simp] theorem takeInput_resetSeen (s : State) : (s.takeInput).resetSeen = s.resetSeen := rfl
@[simp] theorem takeInput_inbox (s : State) : (s.takeInput).inbox = s.inbox.tail := rfl

/-! ### `Status.raise` and `Status.raised` -/

@[simp] theorem raise_keeps_ok (c : Cause) (st : Status) : (st.raise c).ok = st.ok := by cases c <;> rfl
@[simp] theorem raise_keeps_av (c : Cause) (st : Status) : (st.raise c).av = st.av := by cases c <;> rfl
@[simp] theorem raise_keeps_lv (c : Cause) (st : Status) : (st.raise c).lv = st.lv := by cases c <;> rfl
@[simp] theorem raise_keeps_dv (c : Cause) (st : Status) : (st.raise c).dv = st.dv := by cases c <;> rfl
@[simp] theorem raised_ackErr (st : Status) : st.raised .ackErr = st.ackErr := rfl
theorem raise_ackErr_eq (st : Status) : st.raise .ackErr = { st with ackErr := true } := rfl
@[simp] theorem raised_csErr (st : Status) : st.raised .csErr = st.csErr := rfl
theorem raise_csErr_eq (st : Status) : st.raise .csErr = { st with csErr := true } := rfl
@[simp] theorem raised_lenErr (st : Status) : st.raised .lenErr = st.lenErr := rfl
theorem raise_lenErr_eq (st : Status) : st.raise .lenErr = { st with lenErr := true } := rfl
@[simp] theorem raised_seqErr (st : Status) : st.raised .seqErr = st.seqErr := rfl
theorem raise_seqErr_eq (st : Status) : st.raise .seqErr = { st with seqErr := true } := rfl
@[simp] theorem raised_illCmd (st : Status) : st.raised .illCmd = st.illCmd := rfl
theorem raise_illCmd_eq (st : Status) : st.raise .illCmd = { st with illCmd := true } := rfl

/-- Raising a cause sets its flag and no other. -/
theorem raised_raise (c c' : Cause) (st : Status) :
    (st.raise c').raised c = (st.raised c || decide (c = c')) := by
  cases c <;> cases c' <;> simp [Status.raise]

/-- No cause is raised in the reset STATUS. -/
@[simp] theorem raised_reset (c : Cause) : Status.reset.raised c = false := by cases c <;> rfl

/-- Writing OK raises nothing. -/
@[simp] theorem raised_with_ok (c : Cause) (b : Bool) (st : Status) :
    Status.raised c { st with ok := b } = st.raised c := by cases c <;> rfl

/-- ANY is 1 exactly when some cause is raised (R14). -/
theorem any_iff_raised (st : Status) : st.any = true ↔ ∃ c, st.raised c = true := by
  constructor
  · intro h
    simp only [Status.any, Bool.or_eq_true] at h
    obtain (((h | h) | h) | h) | h := h
    · exact ⟨.ackErr, h⟩
    · exact ⟨.csErr, h⟩
    · exact ⟨.lenErr, h⟩
    · exact ⟨.seqErr, h⟩
    · exact ⟨.illCmd, h⟩
  · rintro ⟨c, h⟩
    cases c <;> simp_all [Status.any]

end Sys2Proof.Machine
end

