-- ==== Sys2Proof/Laws/Ops.lean ====
section
/-!
SUPPORT. What each shared operation can do, said once: the check procedure by its three outcomes, the
data encoder, an illegal word.
-/

namespace Sys2Proof.Machine

/-- ENCL's error condition as numbers (R55). -/
theorem countIllegal_iff (n : Byte) : countIllegal n = true ↔ n.toNat = 0 ∨ 15 < n.toNat := by
  unfold countIllegal
  rw [Bool.or_eq_true, beq_iff_eq, decide_eq_true_eq]
  rfl

/-- The three outcomes of the check procedure (R59). -/
theorem check_cases (valid : Bool) (e rx : Byte) (err : Cause) (s : State) :
    (valid = false ∧
      s.check valid e rx err = ((s.setOk false).raise .seqErr).respond (packCheck rx 0 true false)) ∨
    (valid = true ∧ rx = e ∧
      s.check valid e rx err = (s.setOk true).respond (packCheck rx e false true)) ∨
    (valid = true ∧ rx ≠ e ∧
      s.check valid e rx err = ((s.setOk false).raise err).respond (packCheck rx e false false)) := by
  cases valid
  · exact .inl ⟨rfl, rfl⟩
  · by_cases h : rx = e
    · exact .inr (.inl ⟨rfl, h, by simp [State.check, h]⟩)
    · exact .inr (.inr ⟨rfl, h, by simp [State.check, h]⟩)

/-- What a check leaves alone: every latch, ACC, and the model's own fields. -/
theorem check_frame (valid : Bool) (e rx : Byte) (err : Cause) (s : State) :
    s.check valid e rx err =
      { s with
        status := (s.check valid e rx err).status
        resp := (s.check valid e rx err).resp
        rspValid := true } := by
  obtain ⟨-, h⟩ | ⟨-, -, h⟩ | ⟨-, -, h⟩ := check_cases valid e rx err s <;> rw [h] <;> rfl

/-- A check leaves the valid bits alone (R59). -/
theorem check_keeps_valid_bits (valid : Bool) (e rx : Byte) (err : Cause) (s : State) :
    (s.check valid e rx err).status.av = s.status.av ∧
    (s.check valid e rx err).status.lv = s.status.lv ∧
    (s.check valid e rx err).status.dv = s.status.dv := by
  obtain ⟨-, h⟩ | ⟨-, -, h⟩ | ⟨-, -, h⟩ := check_cases valid e rx err s <;> rw [h] <;> simp

/-- The causes that are raised after a check (R59, R78). -/
theorem check_raised (valid : Bool) (e rx : Byte) (err c : Cause) (s : State) :
    (s.check valid e rx err).status.raised c =
      (s.status.raised c || (valid && !(rx == e) && decide (c = err)) ||
        (!valid && decide (c = .seqErr))) := by
  obtain ⟨rfl, h⟩ | ⟨rfl, rfl, h⟩ | ⟨rfl, hne, h⟩ := check_cases valid e rx err s <;> rw [h]
  · simp [raised_raise]
  · simp
  · simp [raised_raise, beq_eq_false_iff_ne.mpr hne]

/-- What ENCD does (R56–R58), as one record. -/
theorem encodeData_eq (m : EncMode) (v : Nibble) (s : State) :
    s.encodeData m v =
      { s with
        mode := m, v := v, status := { s.status with dv := true }
        resp := (packPair (ackD m v) (encD m v)).setWidth 32, rspValid := true } := rfl

/-- What an illegal word does (R39), as one record. -/
theorem illegalCommand_eq (s : State) :
    s.illegalCommand =
      { s with status := { s.status with illCmd := true }, resp := 0, rspValid := true } := rfl

/-- CLR leaves what a reset edge leaves, but for `rsp_valid` and the model's own fields (R72). -/
theorem clear_respond_eq (s : State) :
    (s.clear.respond 0) =
      { State.reset with rspValid := true, resetSeen := s.resetSeen, inbox := s.inbox } := rfl

end Sys2Proof.Machine
end

