-- ==== Sys2Proof/Laws/Step.lean ====
section
/-!
SUPPORT. What an accepted command and a clock edge can do, said once: every command answers a next state
that keeps the model's own fields and shows a response, and an edge is one of four cases.
-/

namespace Sys2Proof.Machine

/-- Every command's next state as one term: `exec` never stops (R77). -/
def execNext : Instr → State → State
  | .nop, s => s.respond 0
  | .clr, s => s.clear.respond 0
  | .enca a, s => (s.latchAddr a).respond (packTelegram a)
  | .encl n, s =>
    (if countIllegal n then (s.latchCount n).raise .lenErr else s.latchCount n).respond
      ((packPair (ackL n) (encL n)).setWidth 32)
  | .encdW v, s => s.encodeData .writeNibble v
  | .encdS v, s => s.encodeData .setBit v
  | .encdC v, s => s.encodeData .clearBit v
  | .chka i rx, s => s.check s.status.av (s.exa i) rx .ackErr
  | .chkl rx, s => s.check s.status.lv s.exl rx .ackErr
  | .chkd rx, s => s.check s.status.dv s.exd rx .ackErr
  | .csadd b, s =>
    State.respond ((BitVec.ofNat 16 ((s.acc.toNat + b.toNat) % 65536)).setWidth 32)
      { s with acc := BitVec.ofNat 16 ((s.acc.toNat + b.toNat) % 65536) }
  | .cschk rx, s => s.check true s.csum rx .csErr
  | .rdreg sel, s => s.respond ((s.view sel).setWidth 32)

theorem exec_eq (i : Instr) (s : State) : exec i s = .next (execNext i s) := by
  cases i <;> rfl

/-- An accepted word's next state (R9, R39). -/
def acceptNext (w : CommandWord) (s : State) : State :=
  match decode w with
  | .ok i => execNext i s
  | .error _ => s.illegalCommand

theorem acceptWord_eq (w : CommandWord) (s : State) : acceptWord w s = .next (acceptNext w s) := by
  unfold acceptWord acceptNext
  split <;> simp [exec_eq, *]

/-- What every command does to the fields that are not its own (R19, R94): a response is shown, and the
model's own fields stay. -/
theorem execNext_port (i : Instr) (s : State) :
    (execNext i s).rspValid = true ∧ (execNext i s).resetSeen = s.resetSeen ∧
      (execNext i s).inbox = s.inbox := by
  cases i with
  | encl n => simp only [execNext]; split <;> simp
  | chka i rx => rw [execNext, check_frame]; simp
  | chkl rx => rw [execNext, check_frame]; simp
  | chkd rx => rw [execNext, check_frame]; simp
  | cschk rx => rw [execNext, check_frame]; simp
  | encdW v | encdS v | encdC v => rw [execNext, encodeData_eq]; simp
  | nop | clr | enca a | csadd b | rdreg sel => simp [execNext]

theorem acceptNext_port (w : CommandWord) (s : State) :
    (acceptNext w s).rspValid = true ∧ (acceptNext w s).resetSeen = s.resetSeen ∧
      (acceptNext w s).inbox = s.inbox := by
  unfold acceptNext
  split
  · exact execNext_port _ s
  · rw [illegalCommand_eq]; simp

/-- The four things one clock edge can do (R80, R86, R87, R94). -/
theorem clockEdge_cases (c : PortCycle) (s : State) :
    (c.rst = true ∧ clockEdge c s = .next s.resetEdge) ∨
    (c.rst = false ∧ c.cmdValid = true ∧ s.resetSeen = true ∧
      clockEdge c s = .next (acceptNext c.cmdWord s)) ∨
    (c.rst = false ∧ c.cmdValid = true ∧ s.resetSeen = false ∧
      clockEdge c s = .refused .commandBeforeReset) ∨
    (c.rst = false ∧ c.cmdValid = false ∧ clockEdge c s = .next s.idleEdge) := by
  cases hr : c.rst <;> cases hv : c.cmdValid <;> cases hs : s.resetSeen <;>
    simp [clockEdge, acceptWord_eq, hr, hv, hs]

/-- `step` on a state whose next input sample is `p`. -/
theorem step_of_inbox (s : State) (p : PortCycle) (rest : List PortCycle) (h : s.inbox = p :: rest) :
    step s = clockEdge p { s with inbox := rest } := by
  simp [step, State.nextInput, State.takeInput, h]

/-- One more step of a run that goes on, for any machine. -/
theorem run_succ_of (M : Host.Core) (k : Nat) (s t : M.State) (h : M.step s = .next t) :
    M.run (k + 1) s = M.run k t := by
  simp [Host.Core.run, h]

/-- One more step of a run of the TCE that goes on. -/
theorem run_succ (k : Nat) (s t : State) (h : step s = .next t) :
    Host.Core.run Sys2Proof.core (k + 1) s = Host.Core.run Sys2Proof.core k t :=
  run_succ_of Sys2Proof.core k s t h

/-- `withFetchWord` makes the very next step accept the word. -/
theorem step_withFetchWord (s : State) (w : Nat) :
    step (s.withFetchWord 24 w) =
      acceptWord (BitVec.ofNat 24 (w % 2 ^ 24)) { s with resetSeen := true } := rfl

end Sys2Proof.Machine
end

