-- ==== Sys2Proof/Laws/HostSeq.lean ====
section
/-!
SUPPORT. A host that follows spec/70_reset_and_hazards.md R91 with a device that answers by the
document's formulas ends its read attempt with every check matched and no error flag.
-/

namespace Sys2Proof.Machine

/-- A command that is no check never ends an attempt. -/
theorem runAttempt_plain (i : Instr) (is : List Instr) (s : State) (h : isCheckCommand i = false) :
    runAttempt (i :: is) s = runAttempt is (execNext i s) := by
  simp [runAttempt, exec_eq, h]

/-- A check whose received byte is the expected one does not end an attempt. -/
theorem runAttempt_hit (i : Instr) (is : List Instr) (s : State) (h : (execNext i s).status.ok = true) :
    runAttempt (i :: is) s = runAttempt is (execNext i s) := by
  simp [runAttempt, exec_eq, h]

/-- A check whose received byte is the expected one: OK, and no flag raised. -/
theorem check_hit (e : Byte) (err : Cause) (s : State) :
    s.check true e e err = (s.setOk true).respond (packCheck e e false true) := by
  simp [State.check]

/-- Summing data bytes changes ACC and the response only. -/
theorem runAttempt_sum (data : List Byte) (is : List Instr) (s : State) :
    ∃ t : State, runAttempt (data.map .csadd ++ is) s = runAttempt is t ∧ t.status = s.status ∧
      t.acc.toNat = (s.acc.toNat + (data.map BitVec.toNat).sum) % 65536 := by
  induction data generalizing s with
  | nil => exact ⟨s, rfl, rfl, by have := s.acc.isLt; simp; omega⟩
  | cons b bs ih =>
    obtain ⟨t, h, hst, hacc⟩ := ih (execNext (.csadd b) s)
    refine ⟨t, ?_, by rw [hst]; rfl, ?_⟩
    · rw [List.map_cons, List.cons_append, runAttempt_plain _ _ _ rfl]; exact h
    · rw [hacc]; simp [execNext]; omega

/-- R91 with a legal count and the expected byte in answer to each byte: the attempt is not aborted, and
STATUS at its end is OK, AV and LV with no error flag. -/
theorem readAttempt_succeeds (a : Half) (n : Byte) (data : List Byte) (s : State)
    (hn : countIllegal n = false) :
    ∃ t : State,
      runAttempt (readAttempt a n (ackA 0 a) (ackA 1 a) (ackA 2 a) (ackA 3 a) (ackL n) data
        (checksum data)) s = .next (t, true) ∧
      t.status = { Status.reset with ok := true, av := true, lv := true } := by
  let u := execNext (.encl n) (execNext (.enca a) (execNext .clr s))
  have hu : u.status = { Status.reset with av := true, lv := true } ∧ u.addr = a ∧ u.n = n ∧ u.acc = 0 := by
    simp [u, execNext, hn]
  obtain ⟨hst, ha, hc, h0⟩ := hu
  let v := (((((u.check true (ackA 0 a) (ackA 0 a) .ackErr).check true (ackA 1 a) (ackA 1 a) .ackErr).check
    true (ackA 2 a) (ackA 2 a) .ackErr).check true (ackA 3 a) (ackA 3 a) .ackErr).check
    true (ackL n) (ackL n) .ackErr)
  have hv : v.status = { Status.reset with ok := true, av := true, lv := true } ∧ v.acc = 0 := by
    simp [v, check_hit, hst, h0]
  obtain ⟨t, ht, hts, hacc⟩ := runAttempt_sum data [.cschk (checksum data)] v
  have hsum : t.csum = checksum data := by
    apply BitVec.eq_of_toNat_eq
    rw [csum_toNat, checksum_toNat, hacc, hv.2]
    simp
  refine ⟨execNext (.cschk (checksum data)) t, ?_, ?_⟩
  · have hlist : readAttempt a n (ackA 0 a) (ackA 1 a) (ackA 2 a) (ackA 3 a) (ackL n) data (checksum data) =
        .clr :: .enca a :: .encl n :: .chka 0 (ackA 0 a) :: .chka 1 (ackA 1 a) :: .chka 2 (ackA 2 a)
          :: .chka 3 (ackA 3 a) :: .chkl (ackL n) :: (data.map .csadd ++ [.cschk (checksum data)]) := rfl
    rw [hlist, runAttempt_plain _ _ _ rfl, runAttempt_plain _ _ _ rfl, runAttempt_plain _ _ _ rfl]
    change runAttempt _ u = _
    rw [runAttempt_hit, runAttempt_hit, runAttempt_hit, runAttempt_hit, runAttempt_hit]
    · have hend : execNext (.chkl (ackL n)) (execNext (.chka 3 (ackA 3 a)) (execNext (.chka 2 (ackA 2 a))
          (execNext (.chka 1 (ackA 1 a)) (execNext (.chka 0 (ackA 0 a)) u)))) = v := by
        simp [v, execNext, State.exa, State.exl, check_hit, hst, ha, hc]
      rw [hend, ht, runAttempt_hit]
      · rfl
      · simp [execNext, hsum, check_hit]
    all_goals simp [execNext, State.exa, State.exl, check_hit, hst, ha, hc]
  · simp [execNext, hsum, check_hit, hts, hv.1]

end Sys2Proof.Machine
end

