-- ==== Sys2Proof/Laws/PerInstr.lean ====
section
/-!
SUPPORT. Statements about every command, one lemma per constructor of `Instr`.
-/

namespace Sys2Proof.Laws.EncodesInItsRow

/-- A command's word matches the row of R38 that bears its mnemonic. -/
def Statement (i : Instr) : Prop :=
  ∃ r ∈ opcodeTable, r.mnemonic = i.mnemonic ∧ r.fits (encode i) = true

theorem and_append {n m : Nat} (x x' : BitVec n) (y y' : BitVec m) :
    (x ++ y) &&& (x' ++ y') = (x &&& x') ++ (y &&& y') := by
  apply BitVec.eq_of_getLsbD_eq
  intro k _
  simp only [BitVec.getLsbD_and, BitVec.getLsbD_append]
  split <;> rfl

theorem and_packFields (op op' f f' : Nibble) (imm imm' : Half) :
    packFields op f imm &&& packFields op' f' imm' =
      packFields (op &&& op') (f &&& f') (imm &&& imm') := by
  have h := and_append (op ++ f) (op' ++ f') imm imm'
  rw [and_append op op' f f'] at h
  exact h

/-- A packed word matches a row when its fields do, one by one. -/
theorem fits_of_fields (r : OpcodeRow) (op f : Nibble) (imm : Half)
    (hop : op &&& fieldOp r.mask = fieldOp r.value) (hf : f &&& fieldF r.mask = fieldF r.value)
    (himm : imm &&& fieldImm r.mask = fieldImm r.value) : r.fits (packFields op f imm) = true := by
  have h := and_packFields op (fieldOp r.mask) f (fieldF r.mask) imm (fieldImm r.mask)
  rw [packFields_fields, hop, hf, himm, packFields_fields] at h
  exact beq_iff_eq.mpr h

theorem byte_and_high (b : Byte) : b.setWidth 16 &&& 0xFF00 = 0 := by
  revert b; decide

theorem nibble_and_high (v : Nibble) : v.setWidth 16 &&& 0xFFF0 = 0 := by
  revert v; decide

theorem nop : Statement .nop := ⟨⟨.nop, 0x000000, 0xFFFFFF⟩, by decide, rfl, by decide⟩

theorem clr : Statement .clr := ⟨⟨.clr, 0x100000, 0xFFFFFF⟩, by decide, rfl, by decide⟩

theorem enca (a : Half) : Statement (.enca a) :=
  ⟨⟨.enca, 0x200000, 0xFF0000⟩, by decide, rfl,
    fits_of_fields _ _ _ _ (by decide) (by decide) (by simp [fieldImm])⟩

theorem encl (n : Byte) : Statement (.encl n) :=
  ⟨⟨.encl, 0x300000, 0xFFFF00⟩, by decide, rfl,
    fits_of_fields _ _ _ _ (by decide) (by decide) (byte_and_high n)⟩

theorem encdW (v : Nibble) : Statement (.encdW v) :=
  ⟨⟨.encdW, 0x400000, 0xFFFFF0⟩, by decide, rfl,
    fits_of_fields _ _ _ _ (by decide) (by decide) (nibble_and_high v)⟩

theorem encdS (v : Nibble) : Statement (.encdS v) :=
  ⟨⟨.encdS, 0x410000, 0xFFFFF0⟩, by decide, rfl,
    fits_of_fields _ _ _ _ (by decide) (by decide) (nibble_and_high v)⟩

theorem encdC (v : Nibble) : Statement (.encdC v) :=
  ⟨⟨.encdC, 0x420000, 0xFFFFF0⟩, by decide, rfl,
    fits_of_fields _ _ _ _ (by decide) (by decide) (nibble_and_high v)⟩

theorem chka (idx : Fin 4) (rx : Byte) : Statement (.chka idx rx) :=
  ⟨⟨.chka, 0x500000, 0xFCFF00⟩, by decide, rfl,
    fits_of_fields _ _ _ _ (by decide) (by revert idx; decide) (byte_and_high rx)⟩

theorem chkl (rx : Byte) : Statement (.chkl rx) :=
  ⟨⟨.chkl, 0x600000, 0xFFFF00⟩, by decide, rfl,
    fits_of_fields _ _ _ _ (by decide) (by decide) (byte_and_high rx)⟩

theorem chkd (rx : Byte) : Statement (.chkd rx) :=
  ⟨⟨.chkd, 0x700000, 0xFFFF00⟩, by decide, rfl,
    fits_of_fields _ _ _ _ (by decide) (by decide) (byte_and_high rx)⟩

theorem csadd (b : Byte) : Statement (.csadd b) :=
  ⟨⟨.csadd, 0x800000, 0xFFFF00⟩, by decide, rfl,
    fits_of_fields _ _ _ _ (by decide) (by decide) (byte_and_high b)⟩

theorem cschk (rx : Byte) : Statement (.cschk rx) :=
  ⟨⟨.cschk, 0x900000, 0xFFFF00⟩, by decide, rfl,
    fits_of_fields _ _ _ _ (by decide) (by decide) (byte_and_high rx)⟩

theorem rdreg (sel : View) : Statement (.rdreg sel) :=
  ⟨⟨.rdreg, 0xA00000, 0xF0FFFF⟩, by decide, rfl,
    fits_of_fields _ _ _ _ (by decide) (by simp [fieldF]) (by decide)⟩

end Sys2Proof.Laws.EncodesInItsRow
end

