-- ==== Sys2Proof/Tests/Slice0.lean ====
section
/-!
SUPPORT. The model's own tests. Expected values are the spec's: the bit patterns of 30_encoding.md R38,
the vectors of 95_test_vectors.md (sections cited), the examples of the command rules. Below them, one
witness for each statement that has hypotheses.
-/

namespace Sys2Proof.Tests

open Sys2Proof.Machine Sys2Proof.Claims

/-! ### Helpers -/

/-- The state after a command, or the reset state where it stops (it never does). -/
def after (i : Instr) (s : State) : State :=
  match exec i s with
  | .next t => t
  | .fault _ => State.reset
  | .refused _ => State.reset

/-- A command answers this response and leaves this STATUS view. -/
def answers (i : Instr) (s : State) (resp : ResponseWord) (status : Half) : Bool :=
  (after i s).resp == resp && (after i s).status.word == status

/-- The state after step 12 of program P1 (95_test_vectors.md section 2.7). -/
def afterP1 : State :=
  { State.reset with
    addr := 0x05D8, n := 3, acc := 0x0047
    status := { Status.reset with ok := true, av := true, lv := true } }

/-- The reset state with these inputs to come. -/
def withInputs (inputs : List PortCycle) : State := { State.reset with inbox := inputs }

/-- A state in which no reset edge has been seen. -/
def unreset (inputs : List PortCycle) : State := { State.reset with resetSeen := false, inbox := inputs }

/-! ### Decoding: words written bit by bit from the patterns of R38 -/

theorem test_decode_nop : decode 0b000000000000000000000000 = .ok (.nop) := by decide
theorem test_decode_clr : decode 0b000100000000000000000000 = .ok (.clr) := by decide
theorem test_decode_enca : decode 0b001000000000010111011000 = .ok (.enca 0x05D8) := by decide
theorem test_decode_encl : decode 0b001100000000000000000011 = .ok (.encl 3) := by decide
theorem test_decode_encdW : decode 0b010000000000000000001001 = .ok (.encdW 9) := by decide
theorem test_decode_encdS : decode 0b010000010000000000001000 = .ok (.encdS 8) := by decide
theorem test_decode_encdC : decode 0b010000100000000000000011 = .ok (.encdC 3) := by decide
theorem test_decode_chka : decode 0b010100100000000000101101 = .ok (.chka 2 0x2D) := by decide
theorem test_decode_chkl : decode 0b011000000000000000110011 = .ok (.chkl 0x33) := by decide
theorem test_decode_chkd : decode 0b011100000000000000000100 = .ok (.chkd 0x04) := by decide
theorem test_decode_csadd : decode 0b100000000000000000110100 = .ok (.csadd 0x34) := by decide
theorem test_decode_cschk : decode 0b100100000000000001000111 = .ok (.cschk 0x47) := by decide
theorem test_decode_rdreg : decode 0b101011100000000000000000 = .ok (.rdreg .csum) := by decide

/-- The sixteen selects of R18, in order. -/
theorem test_view_selects :
    ((List.range 16).map (fun k => viewOfCode (BitVec.ofNat 4 k))) =
      [.status, .addr, .txa 0, .txa 1, .txa 2, .txa 3, .exa 0, .exa 1, .exa 2, .exa 3, .len, .data,
       .acc, .cfg, .csum, .id] := by decide

/-- The illegal words of 95_test_vectors.md section 2.8. -/
def illegalWords : List CommandWord :=
  [0xB00000, 0xF12345, 0x000001, 0x010000, 0x100001, 0x210000, 0x300100, 0x3F0003, 0x430005,
   0x4F0000, 0x400010, 0x540000, 0x500100, 0x610033, 0x700104, 0x800100, 0x910047, 0xA00001, 0xAE8000]

theorem test_illegal_words_refused :
    illegalWords.all (fun w => match decode w with | .ok _ => false | .error _ => true) = true := by decide

theorem test_illegal_names :
    decode 0xB00000 = .error .unassignedOp ∧ decode 0x210000 = .error .reservedF ∧
      decode 0x300100 = .error .reservedImm := by decide

/-- Section 2.8: from reset an illegal word gives RESP = 0 and STATUS = 0x0300. -/
theorem test_illegal_word_effect :
    State.reset.illegalCommand.resp = 0 ∧ State.reset.illegalCommand.status.word = 0x0300 := by decide

theorem test_decodeTableWord :
    decodeTableWord 24 0x2005D8 = some (.enca 0x05D8) ∧ decodeTableWord 24 0x540000 = none := by decide

/-- R54's example as the first command after reset, through the port. -/
theorem test_first_command_after_reset :
    step (State.reset.withFetchWord 24 0x2005D8) = exec (.enca 0x05D8) State.reset := by rfl

/-! ### Well-formedness: an ill-formed term for each check (R37, R42) -/

theorem test_wf_too_few : SourceLine.wellFormed (.command .chka [1]) = false := by decide
theorem test_wf_too_many : SourceLine.wellFormed (.command .nop [0]) = false := by decide
theorem test_wf_address : SourceLine.wellFormed (.command .enca [0x10000]) = false := by decide
theorem test_wf_count : SourceLine.wellFormed (.command .encl [256]) = false := by decide
theorem test_wf_value : SourceLine.wellFormed (.command .encdS [16]) = false := by decide
theorem test_wf_index : SourceLine.wellFormed (.command .chka [4, 0]) = false := by decide
theorem test_wf_received : SourceLine.wellFormed (.command .chka [3, 256]) = false := by decide
theorem test_wf_select : SourceLine.wellFormed (.command .rdreg [16]) = false := by decide
theorem test_wf_word : SourceLine.wellFormed (.word 0x1000000) = false := by decide
theorem test_wf_accepts : SourceLine.wellFormed (.command .chka [3, 255]) = true := by decide

/-! ### The assembler: the examples of R42 and R43 -/

theorem test_asm_enca : assembleLine "ENCA 0x05D8" = some [0x2005D8] := by decide
theorem test_asm_encl : assembleLine "ENCL 3" = some [0x300003] := by decide
theorem test_asm_encdC : assembleLine "ENCD.C 0" = some [0x420000] := by decide
theorem test_asm_chka : assembleLine "CHKA 2, 0x2D" = some [0x52002D] := by decide
theorem test_asm_cschk : assembleLine "CSCHK 0x47" = some [0x900047] := by decide
theorem test_asm_rdreg : assembleLine "RDREG 0xE" = some [0xAE0000] := by decide
theorem test_asm_view_name : assembleLine "RDREG CSUM" = some [0xAE0000] := by decide
theorem test_asm_comment : assembleLine "  NOP ; nothing" = some [0x000000] := by decide
theorem test_asm_raw_word : assembleLine ".word 0x430005" = some [0x430005] := by decide
theorem test_asm_out_of_range : assembleLine "ENCL 256" = none := by decide
theorem test_asm_empty_line : assembleLine "; only a comment" = some [] := by decide
theorem test_asm_short_raw_word : assembleLine ".word 0x43" = none := by decide

/-! ### One step of each command (95_test_vectors.md section 2) -/

theorem test_nop_keeps_status : answers (.nop) (afterP1) 0 0x0007 = true := by decide
theorem test_enca_05D8 : answers (.enca 0x05D8) (State.reset) 0x8296B6A2 0x0002 = true := by decide
theorem test_enca_A5C3 : answers (.enca 0xA5C3) (State.reset) 0xAA96B28E 0x0002 = true := by decide
theorem test_encl_16 : answers (.encl 16) (State.reset) 0x000040FE 0x0244 = true := by decide
theorem test_encl_208 : answers (.encl 208) (State.reset) 0x000000FE 0x0244 = true := by decide
theorem test_encdW_9 : answers (.encdW 9) (State.reset) 0x00001966 0x0008 = true := by decide
theorem test_encdS_15 : answers (.encdS 15) (State.reset) 0x0000134E 0x0008 = true := by decide
theorem test_encdC_4 : answers (.encdC 4) (State.reset) 0x00001042 0x0008 = true := by decide
theorem test_chka_mismatch : answers (.chka 3 0x33) (after (.enca 0x05D8) State.reset) 0x00333800 0x0212 = true := by decide
theorem test_chka_not_performed : answers (.chka 0 0x00) (State.reset) 0x00000002 0x0280 = true := by decide
theorem test_chkl_match_after_16 : answers (.chkl 0x40) (after (.encl 16) State.reset) 0x00404001 0x0245 = true := by decide
theorem test_chkl_mismatch : answers (.chkl 0xCE) (after (.encl 3) State.reset) 0x00CE3300 0x0214 = true := by decide
theorem test_chkd_clear_match : answers (.chkd 0x1B) (after (.encdC 15) State.reset) 0x001B1B01 0x0009 = true := by decide
theorem test_chkd_mismatch : answers (.chkd 0x12) (after (.encdS 0) State.reset) 0x00120400 0x0218 = true := by decide
theorem test_csadd_wraps : answers (.csadd 0xFF) ({ State.reset with acc := 0xFFFE }) 0x000000FD 0x0000 = true := by decide
theorem test_csadd_carry : answers (.csadd 0x01) ({ State.reset with acc := 0x00FF }) 0x00000100 0x0000 = true := by decide
theorem test_cschk_mismatch : answers (.cschk 0x48) (afterP1) 0x00484700 0x0226 = true := by decide
theorem test_cschk_low_byte : answers (.cschk 0xF1) ({ State.reset with acc := 0x0EF1 }) 0x00F1F101 0x0001 = true := by decide
theorem test_rdreg_data_at_reset : answers (.rdreg .data) (State.reset) 0x00001042 0x0000 = true := by decide
theorem test_rdreg_len : answers (.rdreg .len) (afterP1) 0x000033CE 0x0007 = true := by decide
theorem test_clr_resets :
    after .clr { afterP1 with v := 9, mode := .clearBit } = { State.reset with rspValid := true } := by decide

/-- P5 step 13: the view CFG is {00, MODE, V, N}. -/
theorem test_cfg_view :
    State.view { State.reset with n := 2, v := 9, mode := .clearBit } .cfg = 0x2902 := by decide

/-! ### The port -/

/-- Reset wins over an offered command (R80). -/
theorem test_reset_wins : clockEdge ⟨true, true, 0x2005D8⟩ afterP1 = .next State.reset := by rfl

/-- With nothing offered the registers and RESP stay, and `rsp_valid` falls (R94). -/
theorem test_idle_edge : step { afterP1 with rspValid := true } = .next afterP1 := by rfl

/-- A command before the first reset has no meaning (R87). -/
theorem test_before_reset :
    step (unreset [⟨false, true, 0x000000⟩]) = .refused .commandBeforeReset := by rfl

/-! ### Witnesses: a state and operands that meet the hypotheses of each statement that has any -/

theorem witness_OpcodeMapDecides :
    decode 0x51FF00 = .error .reservedImm ∧ decode 0x5300FF = .ok (.chka 3 0xFF) ∧
      (⟨.chka, 0x500000, 0xFCFF00⟩ : OpcodeRow) ∈ opcodeTable ∧
      (0x5300FF : CommandWord) &&& 0xFCFF00 = 0x500000 := by decide

theorem witness_IllegalWordOnlyFlagsIllcmd : decode 0xFFFFFF = .error .unassignedOp := by decide

theorem witness_AssemblerNeverTruncates :
    SourceLine.wellFormed (.command .encl [256]) = false ∧
      assembleSource (.command .encl [255]) = some 0x3000FF := by decide

theorem witness_AddressByteFormula : nibNumber 3 0xFFF1 = nibNumber 3 0x0001 := by decide

theorem witness_LengthByteFormulas :
    (0x0F : Byte).toNat ≤ 15 ∧ 15 ≤ (0x0F : Byte).toNat ∧ 1 ≤ (0x01 : Byte).toNat ∧
      15 ≤ (0xFF : Byte).toNat := by decide

theorem witness_WireBytesAvoidResetBytes :
    (0x2FFF : Half).toNat / 4096 = 2 ∧ (0x6000 : Half).toNat / 4096 = 6 := by decide

theorem witness_AddressEncodingInvertible : ∀ i, encA i 0xFFFF = encA i 0xFFFF := by decide

theorem witness_LengthByteInjectiveWhenLegal :
    1 ≤ (0x0F : Byte).toNat ∧ (0x0F : Byte).toNat ≤ 15 ∧ encL 0x0F = encL 0x0F ∧
      15 ≤ (0x10 : Byte).toNat ∧ ackL 0xFF = ackL 0xFF := by decide

theorem witness_DataModesAreOneCode :
    (27 : Nat) = (0xF : Nibble).toNat + 12 ∧ (0x3 : Nibble).toNat ≤ 3 := by decide

theorem witness_ChkaRunsCheck_not_performed : State.reset.status.av = false := by decide
theorem witness_ChkaRunsCheck_match :
    afterP1.status.av = true ∧ (0x38 : Byte).toNat = 16 * 3 + nibNumber 3 afterP1.addr := by decide
theorem witness_ChkaRunsCheck_mismatch :
    afterP1.status.av = true ∧ (0x00 : Byte).toNat ≠ 16 * 3 + nibNumber 3 afterP1.addr := by decide
theorem witness_ChklRunsCheck_not_performed : State.reset.status.lv = false := by decide
theorem witness_ChklRunsCheck_match :
    afterP1.status.lv = true ∧ (0x33 : Byte).toNat = (0x30 + afterP1.n.toNat) % 256 := by decide
theorem witness_ChklRunsCheck_mismatch :
    afterP1.status.lv = true ∧ (0x32 : Byte).toNat ≠ (0x30 + afterP1.n.toNat) % 256 := by decide

/-- ENCD.C 15 from reset. -/
def afterEncdC : State := after (.encdC 15) State.reset

theorem witness_ChkdRunsCheck_not_performed : State.reset.status.dv = false := by decide
theorem witness_ChkdRunsCheck_match :
    afterEncdC.status.dv = true ∧
      (0x1B : Byte).toNat = afterEncdC.v.toNat + ackConstant afterEncdC.mode := by decide
theorem witness_ChkdRunsCheck_mismatch :
    afterEncdC.status.dv = true ∧
      (0x6E : Byte).toNat ≠ afterEncdC.v.toNat + ackConstant afterEncdC.mode := by decide
theorem witness_CschkRunsCheck_match : (0x47 : Byte).toNat = afterP1.acc.toNat % 256 := by decide
theorem witness_CschkRunsCheck_mismatch : (0x48 : Byte).toNat ≠ afterP1.acc.toNat % 256 := by decide

theorem witness_CheckProcedure :
    (0x15 : Byte).toNat = (0x15 : Byte).toNat ∧ (0x14 : Byte).toNat ≠ (0x15 : Byte).toNat := by decide

theorem witness_StatusViewLayout : 10 ≤ 10 ∧ 10 ≤ 15 := by decide

/-- A state with every sticky flag up. -/
def flagged : State :=
  { State.reset with
    status := { Status.reset with ackErr := true, csErr := true, lenErr := true, seqErr := true, illCmd := true } }

theorem witness_StickyFlagsAndOk :
    acceptWord 0x000000 flagged = .next (flagged.respond 0) ∧ flagged.status.raised .ackErr = true ∧
      isCheckCommand (.cschk 0x48) = true ∧
      exec (.cschk 0x48) afterP1 = .next (after (.cschk 0x48) afterP1) ∧
      isCheckCommand .nop = false ∧ exec .nop afterP1 = .next (after .nop afterP1) ∧
      decode 0xB00000 = .error .unassignedOp ∧
      acceptWord 0xB00000 afterP1 = .next afterP1.illegalCommand :=
  ⟨rfl, rfl, rfl, rfl, rfl, rfl, by decide, rfl⟩

theorem witness_AtMostOneCause_legal :
    acceptWord 0x900048 afterP1 = .next (after (.cschk 0x48) afterP1) ∧
      exec (.cschk 0x48) afterP1 = .next (after (.cschk 0x48) afterP1) ∧
      NewlyRaised .csErr afterP1 (after (.cschk 0x48) afterP1) :=
  ⟨rfl, rfl, by unfold NewlyRaised; decide⟩

theorem witness_AtMostOneCause_illegal :
    decode 0x430005 = .error .reservedF ∧ acceptWord 0x430005 afterP1 = .next afterP1.illegalCommand ∧
      NewlyRaised .illCmd afterP1 afterP1.illegalCommand :=
  ⟨by decide, rfl, by unfold NewlyRaised; decide⟩

theorem witness_AtMostOneCause_not_performed :
    State.reset.status.av = false ∧ State.reset.status.lv = false ∧ State.reset.status.dv = false ∧
      exec (.chka 0 0) State.reset = .next (after (.chka 0 0) State.reset) ∧
      exec (.chkl 0x30) State.reset = .next (after (.chkl 0x30) State.reset) ∧
      exec (.chkd 0x10) State.reset = .next (after (.chkd 0x10) State.reset) :=
  ⟨rfl, rfl, rfl, rfl, rfl, rfl⟩

theorem witness_AtMostOneCause_length :
    exec (.encl 16) State.reset = .next (after (.encl 16) State.reset) ∧
      NewlyRaised .lenErr State.reset (after (.encl 16) State.reset) :=
  ⟨rfl, by unfold NewlyRaised; decide⟩

theorem witness_AtMostOneCause_reset : (PortCycle.reset true 0x2005D8).rst = true := by decide

theorem witness_CausesRaisedExactlyWhen : decode 0x540000 = .error .reservedF := by decide

theorem witness_StepNeverStops : State.reset.resetSeen = true := by decide

theorem witness_StepRunsDecodedCommand :
    (withInputs [⟨false, true, 0x2005D8⟩]).inbox = ⟨false, true, 0x2005D8⟩ :: [] ∧
      (withInputs [⟨false, true, 0x2005D8⟩]).resetSeen = true ∧ decode 0x2005D8 = .ok (.enca 0x05D8) := by
  decide

theorem witness_AcceptingEdges_command :
    (withInputs [⟨false, true, 0x000000⟩]).inbox = ⟨false, true, 0x000000⟩ :: [] ∧
      (withInputs [⟨false, true, 0x000000⟩]).resetSeen = true ∧
      step (withInputs [⟨false, true, 0x000000⟩]) = .next (after .nop State.reset) :=
  ⟨rfl, rfl, rfl⟩

theorem witness_AcceptingEdges_reset :
    (withInputs [⟨true, true, 0x000000⟩]).inbox = ⟨true, true, 0x000000⟩ :: [] ∧
      step (withInputs [⟨true, true, 0x000000⟩]) = .next State.reset :=
  ⟨rfl, rfl⟩

theorem witness_AcceptingEdges_idle :
    (withInputs [⟨false, false, 0x2005D8⟩]).inbox = ⟨false, false, 0x2005D8⟩ :: [] ∧
      State.reset.inbox = [] ∧ step (withInputs [⟨false, false, 0x2005D8⟩]) = .next State.reset :=
  ⟨rfl, rfl, rfl⟩

theorem witness_ResetEdgeClearsEverything :
    ({ afterP1 with inbox := [⟨true, true, 0x2005D8⟩] } : State).inbox = ⟨true, true, 0x2005D8⟩ :: [] := by
  decide

theorem witness_OneResetEdgeIsEnough :
    (State.powerUp [⟨true, false, 0⟩, ⟨false, true, 0x300003⟩]).inbox =
      ⟨true, false, 0⟩ :: ⟨false, true, 0x300003⟩ :: [] := rfl

theorem witness_NoMeaningBeforeReset :
    (State.powerUp [⟨false, true, 0x000000⟩]).resetSeen = false ∧
      (State.powerUp [⟨false, true, 0x000000⟩]).inbox = ⟨false, true, 0x000000⟩ :: [] := ⟨rfl, rfl⟩

theorem witness_PortRunIsCommandsInOrder : afterP1.resetSeen = true := by decide

theorem witness_StepDependsOnOperandsOnly :
    afterP1.sameOperands { afterP1 with resp := 0xFFFFFFFF, inbox := [⟨true, false, 0⟩] } :=
  ⟨rfl, rfl, rfl, rfl, rfl, rfl, rfl⟩

theorem witness_AccumulatorHoldsRunningSum_reset :
    (⟨true, false, 0⟩ : PortCycle).rst = true ∧
      (unreset (⟨true, false, 0⟩ :: (offered (sumWords [0x12, 0x34, 0x01]) ++ []))).inbox =
        ⟨true, false, 0⟩ :: (offered (sumWords [0x12, 0x34, 0x01]) ++ []) ∧
      [(0x12 : Byte), 0x34, 0x01].length ≤ 15 := ⟨rfl, rfl, by decide⟩

theorem witness_AccumulatorHoldsRunningSum_clr :
    (withInputs (⟨false, true, 0x100000⟩ :: (offered (sumWords [0xFF]) ++ []))).inbox =
      ⟨false, true, 0x100000⟩ :: (offered (sumWords [0xFF]) ++ []) ∧
      (withInputs (⟨false, true, 0x100000⟩ :: (offered (sumWords [0xFF]) ++ []))).resetSeen = true :=
  ⟨rfl, rfl⟩

theorem witness_AccumulatorHoldsRunningSum_longest :
    (withInputs (⟨true, false, 0⟩ :: (offered (sumWords (List.replicate 257 0xFF)) ++ []))).inbox =
      ⟨true, false, 0⟩ :: (offered (sumWords (List.replicate 257 0xFF)) ++ []) ∧
      (List.replicate 257 (0xFF : Byte)).length ≤ 257 := ⟨rfl, by rw [List.length_replicate]⟩

theorem witness_VerifierAcceptsExactlyTheSum :
    (withInputs (⟨false, true, 0x100000⟩ :: (offered (sumWords [0x12, 0x34, 0x01])
      ++ ⟨false, true, BitVec.ofNat 24 (0x900000 + (0x47 : Byte).toNat)⟩ :: []))).resetSeen = true ∧
    (withInputs (⟨false, true, 0x100000⟩ :: (offered (sumWords [0x12, 0x34, 0x01])
      ++ ⟨false, true, BitVec.ofNat 24 (0x900000 + (0x47 : Byte).toNat)⟩ :: []))).inbox =
      ⟨false, true, 0x100000⟩ :: (offered (sumWords [0x12, 0x34, 0x01])
        ++ ⟨false, true, BitVec.ofNat 24 (0x900000 + (0x47 : Byte).toNat)⟩ :: []) := ⟨rfl, rfl⟩

theorem witness_StepKeepsLatchesAgree :
    afterP1.LatchesAgree ∧ step { afterP1 with rspValid := true } = .next afterP1 :=
  ⟨⟨by decide, by decide, by decide, by decide, by decide⟩, rfl⟩

end Sys2Proof.Tests
end

/-!
PROOF. The scope statements (spec/00_scope.md): an accepted word reads nothing of RESP, of `rsp_valid` or of
the inputs to come (R9). These three fields are replaced at will by `State.withPort`, and every operation
is shown to commute with the replacement.
-/

namespace Sys2Proof.Machine

/-- `s` with RESP, `rsp_valid` and the inputs to come replaced: the fields that are no operand of a
command (R9, R11). -/
def State.withPort (r : ResponseWord) (valid : Bool) (inputs : List PortCycle) (s : State) : State :=
  { s with resp := r, rspValid := valid, inbox := inputs }

/-- Agreeing on the operands is to differ in the replaced fields at most. -/
theorem sameOperands_iff_eq_withPort (s t : State) :
    s.sameOperands t ↔ t = s.withPort t.resp t.rspValid t.inbox := by
  constructor
  · cases s; cases t
    rintro ⟨rfl, rfl, rfl, rfl, rfl, rfl, rfl⟩
    rfl
  · intro h
    rw [h]
    exact ⟨rfl, rfl, rfl, rfl, rfl, rfl, rfl⟩

section Replaced

variable (r : ResponseWord) (valid : Bool) (inputs : List PortCycle) (s : State)

@[simp] theorem view_withPort (sel : View) : (s.withPort r valid inputs).view sel = s.view sel := by
  cases sel <;> rfl

/-- The check procedure of R59 overwrites RESP and `rsp_valid` in each of its three outcomes. -/
theorem check_withPort (seen : Bool) (e rx : Byte) (err : Cause) :
    (s.withPort r valid inputs).check seen e rx err =
      { s.check seen e rx err with inbox := inputs } := by
  unfold State.check
  split_ifs <;> rfl

/-- A command neither reads the replaced fields nor keeps the old RESP and `rsp_valid` (R9, R19). -/
theorem execNext_withPort (i : Instr) :
    execNext i (s.withPort r valid inputs) = { execNext i s with inbox := inputs } := by
  cases i with
  | nop | clr | enca a | encdW v | encdS v | encdC v | csadd b => rfl
  | encl n => simp only [execNext]; split_ifs <;> rfl
  | chka i rx | chkl rx | chkd rx | cschk rx => exact check_withPort ..
  | rdreg sel => simp only [execNext, view_withPort]; rfl

theorem acceptNext_withPort (w : CommandWord) :
    acceptNext w (s.withPort r valid inputs) = { acceptNext w s with inbox := inputs } := by
  unfold acceptNext
  split
  · exact execNext_withPort ..
  · rfl

end Replaced

/-- Settles O42: the two next states are the same but for the inputs to come. -/
theorem stepDependsOnOperandsOnly : Obligations.StepDependsOnOperandsOnly := by
  intro w s t h
  have hnext : acceptNext w t = { acceptNext w s with inbox := t.inbox } := by
    rw [(sameOperands_iff_eq_withPort s t).mp h]
    exact acceptNext_withPort ..
  obtain ⟨-, -, hinbox⟩ := acceptNext_port w s
  refine ⟨acceptNext w s, acceptNext w t, acceptWord_eq w s, acceptWord_eq w t, ?_⟩
  rw [hnext]
  exact ⟨⟨rfl, rfl, rfl, rfl, rfl, rfl, rfl⟩, rfl, rfl, hinbox, rfl⟩

end Sys2Proof.Machine

/-!
PROOF. The registers (spec/10_state.md): the invariant of the latches, which every step keeps (R11, R14,
R16); the bits of STATUS, the MODE field of the view CFG and the computed values (R11, R14, R17); and the
sticky flags and OK, which a check answers as MATCH (R15).
-/

namespace Sys2Proof.Machine

open Sys2Proof.Claims

/-! ## What a command, a word and a step can do -/

theorem exec_next_iff (i : Instr) (s t : State) : exec i s = .next t ↔ execNext i s = t := by
  rw [exec_eq, Host.Outcome.next.injEq]

theorem acceptWord_next_iff (w : CommandWord) (s t : State) :
    acceptWord w s = .next t ↔ acceptNext w s = t := by
  rw [acceptWord_eq, Host.Outcome.next.injEq]

/-- An accepted word runs its command, or is illegal (R38, R39). -/
theorem acceptNext_cases (w : CommandWord) (s : State) :
    (∃ i, decode w = .ok i ∧ acceptNext w s = execNext i s) ∨
    (∃ e, decode w = .error e ∧ acceptNext w s = s.illegalCommand) := by
  unfold acceptNext
  cases hd : decode w with
  | ok i => exact .inl ⟨i, rfl, rfl⟩
  | error e => exact .inr ⟨e, rfl, rfl⟩

/-- A step that has a next state is a reset edge, an accepted word or an idle edge, on the state with its
input sample taken (R86, R94). -/
theorem step_next_cases {s t : State} (h : step s = .next t) :
    t = s.takeInput.resetEdge ∨ (∃ w, t = acceptNext w s.takeInput) ∨ t = s.takeInput.idleEdge := by
  unfold step at h
  obtain ⟨-, he⟩ | ⟨-, -, -, he⟩ | ⟨-, -, -, he⟩ | ⟨-, -, he⟩ :=
    clockEdge_cases s.nextInput s.takeInput <;> rw [he] at h
  · exact .inl (Host.Outcome.next.inj h).symm
  · exact .inr (.inl ⟨_, (Host.Outcome.next.inj h).symm⟩)
  · cases h
  · exact .inr (.inr (Host.Outcome.next.inj h).symm)

/-! ## The invariant of the latches (R11, R14, R16)

The encoders set a latch together with its valid bit, and a check raises ACKERR only where a valid bit let
it be performed (R59). -/

namespace State.LatchesAgree

/-! ### The register operations keep the invariant -/

/-- The invariant speaks of the latches and STATUS only: RESP, ACC and the port's fields are free. -/
theorem of_same_latches {s t : State} (h : s.LatchesAgree) (haddr : t.addr = s.addr) (hn : t.n = s.n)
    (hmode : t.mode = s.mode) (hv : t.v = s.v) (hstatus : t.status = s.status) : t.LatchesAgree := by
  obtain ⟨addr_clear, count_clear, data_clear, count_legal, ack_performed⟩ := h
  constructor <;> simpa only [haddr, hn, hmode, hv, hstatus]

theorem respond {s : State} (h : s.LatchesAgree) (r : ResponseWord) : (s.respond r).LatchesAgree :=
  h.of_same_latches rfl rfl rfl rfl rfl

theorem setOk {s : State} (h : s.LatchesAgree) (b : Bool) : (s.setOk b).LatchesAgree :=
  ⟨h.addr_clear, h.count_clear, h.data_clear, h.count_legal, h.ack_performed⟩

/-- ACKERR needs a valid bit beside it; the other causes that are not LENERR are free. -/
theorem raise {s : State} (h : s.LatchesAgree) {c : Cause} (hlen : c ≠ .lenErr)
    (hack : c = .ackErr → s.status.av = true ∨ s.status.lv = true ∨ s.status.dv = true) :
    (s.raise c).LatchesAgree := by
  cases c with
  | ackErr => exact ⟨h.addr_clear, h.count_clear, h.data_clear, h.count_legal, fun _ => hack rfl⟩
  | lenErr => exact absurd rfl hlen
  | csErr | seqErr | illCmd =>
    exact ⟨h.addr_clear, h.count_clear, h.data_clear, h.count_legal, h.ack_performed⟩

theorem latchAddr {s : State} (h : s.LatchesAgree) (a : Half) : (s.latchAddr a).LatchesAgree where
  addr_clear := by simp
  count_clear := h.count_clear
  data_clear := h.data_clear
  count_legal := h.count_legal
  ack_performed := by simp

theorem latchData {s : State} (h : s.LatchesAgree) (m : EncMode) (v : Nibble) :
    (s.latchData m v).LatchesAgree where
  addr_clear := h.addr_clear
  count_clear := h.count_clear
  data_clear := by simp
  count_legal := h.count_legal
  ack_performed := by simp

/-- A legal count may be latched as it is (R55). -/
theorem latchCount_legal {s : State} (h : s.LatchesAgree) {n : Byte} (hn : countIllegal n = false) :
    (s.latchCount n).LatchesAgree where
  addr_clear := h.addr_clear
  count_clear := by simp
  data_clear := h.data_clear
  count_legal := fun _ _ => by
    have hrange := (countIllegal_iff n).not.mp (by simp [hn])
    rw [latchCount_n]
    omega
  ack_performed := by simp

/-- Any count may be latched with LENERR beside it (R55). -/
theorem latchCount_flagged {s : State} (h : s.LatchesAgree) (n : Byte) :
    ((s.latchCount n).raise .lenErr).LatchesAgree where
  addr_clear := h.addr_clear
  count_clear := by simp
  data_clear := h.data_clear
  count_legal := by simp [raise_lenErr_eq]
  ack_performed := by simp

/-- A check whose performing puts a valid bit beside ACKERR (R59). -/
theorem check {s : State} (h : s.LatchesAgree) {valid : Bool} (e rx : Byte) {err : Cause}
    (hlen : err ≠ .lenErr)
    (hack : err = .ackErr → valid = true →
      s.status.av = true ∨ s.status.lv = true ∨ s.status.dv = true) :
    (s.check valid e rx err).LatchesAgree := by
  obtain ⟨-, heq⟩ | ⟨-, -, heq⟩ | ⟨hvalid, -, heq⟩ := check_cases valid e rx err s <;> rw [heq]
  · exact ((h.setOk false).raise (by decide) (by simp)).respond _
  · exact (h.setOk true).respond _
  · exact ((h.setOk false).raise hlen fun herr => hack herr hvalid).respond _

/-- A reset edge leaves every latch, valid bit and flag at 0 (R86). -/
theorem of_resetEdge (s : State) : s.resetEdge.LatchesAgree := by
  constructor <;> simp [Status.reset]

/-- CLR leaves the latches and STATUS as a reset edge does (R72). -/
theorem of_clear (s : State) : s.clear.LatchesAgree :=
  (of_resetEdge s).of_same_latches rfl rfl rfl rfl rfl

/-! ### Commands and words keep the invariant -/

theorem execNext {s : State} (h : s.LatchesAgree) (i : Instr) : (execNext i s).LatchesAgree := by
  cases i with
  | nop | rdreg sel => exact h.respond _
  | csadd b => exact h.of_same_latches rfl rfl rfl rfl rfl
  | clr => exact (of_clear s).respond 0
  | enca a => exact (h.latchAddr a).respond _
  | encl n =>
    rw [Machine.execNext]
    split_ifs with hn
    · exact (h.latchCount_flagged n).respond _
    · exact (h.latchCount_legal (Bool.eq_false_of_not_eq_true hn)).respond _
  | encdW v | encdS v | encdC v => exact (h.latchData _ v).respond _
  | chka i rx => exact h.check _ rx (by decide) fun _ hav => .inl hav
  | chkl rx => exact h.check _ rx (by decide) fun _ hlv => .inr (.inl hlv)
  | chkd rx => exact h.check _ rx (by decide) fun _ hdv => .inr (.inr hdv)
  | cschk rx => exact h.check _ rx (by decide) (by simp)

theorem acceptNext {s : State} (h : s.LatchesAgree) (w : CommandWord) :
    (acceptNext w s).LatchesAgree := by
  obtain ⟨i, -, heq⟩ | ⟨-, -, heq⟩ := acceptNext_cases w s <;> rw [heq]
  · exact h.execNext i
  · exact (h.raise (by decide) (by simp)).respond 0

end State.LatchesAgree

/-- Settles O46: each of the three kinds of edge keeps the invariant. -/
theorem stepKeepsLatchesAgree : Obligations.StepKeepsLatchesAgree := by
  intro s t h hstep
  have hinput : s.takeInput.LatchesAgree := h.of_same_latches rfl rfl rfl rfl rfl
  obtain rfl | ⟨w, rfl⟩ | rfl := step_next_cases hstep
  · exact .of_resetEdge _
  · exact hinput.acceptNext w
  · exact hinput.of_same_latches rfl rfl rfl rfl rfl

/-! ## What software sees of the registers (R11, R14, R17) -/

/-! ### The bits of the views -/

/-- Bit 0 of a word that ends in a single bit. -/
theorem getLsbD_append_ofBool_zero {k : Nat} (x : BitVec k) (b : Bool) :
    (x ++ BitVec.ofBool b).getLsbD 0 = b := by
  rw [BitVec.getLsbD_append]
  cases b <;> rfl

/-- The other bits of a word that ends in a single bit. -/
theorem getLsbD_append_ofBool_succ {k : Nat} (x : BitVec k) (b : Bool) (j : Nat) :
    (x ++ BitVec.ofBool b).getLsbD (j + 1) = x.getLsbD j := by
  simp [BitVec.getLsbD_append]

/-- The bit numbered by a cause's code is the cause's flag (R78). -/
theorem statusWord_getLsbD_code (st : Status) (c : Cause) : st.word.getLsbD c.code = st.raised c := by
  cases c <;>
    simp only [Status.word, Cause.code, getLsbD_append_ofBool_zero, getLsbD_append_ofBool_succ,
      Status.raised]

/-- Bit 9 of the STATUS view is ANY (R14). -/
theorem statusWord_getLsbD_nine (st : Status) : st.word.getLsbD 9 = st.any := by
  simp only [Status.word, getLsbD_append_ofBool_zero, getLsbD_append_ofBool_succ]

/-- Bits 15:10 of the STATUS view are 0 (R14). -/
theorem statusWord_getLsbD_reserved (st : Status) (k : Nat) (hk : 10 ≤ k) :
    st.word.getLsbD k = false := by
  obtain ⟨j, rfl⟩ := Nat.exists_eq_add_of_le' hk
  simp only [Status.word, getLsbD_append_ofBool_succ, BitVec.getLsbD_zero]

/-- Settles O29: the word is peeled one bit at a time from its low end. -/
theorem statusViewLayout : Obligations.StatusViewLayout := by
  intro st
  refine ⟨?ok, ?av, ?lv, ?dv, statusWord_getLsbD_code st, ?any, statusWord_getLsbD_reserved st⟩
  case any => rw [statusWord_getLsbD_nine, any_iff_raised]
  all_goals simp only [Status.word, getLsbD_append_ofBool_zero, getLsbD_append_ofBool_succ]

/-- The view CFG shows MODE in bits 13:12 (R18). -/
theorem cfgView_mode (s : State) : (s.view .cfg).extractLsb' 12 2 = modeBits s.mode := by
  apply BitVec.eq_of_toNat_eq
  have hmode := (modeBits s.mode).isLt
  have hv := s.v.isLt
  have hn := s.n.isLt
  simp only [State.view, BitVec.extractLsb'_toNat, Nat.shiftRight_eq_div_pow, append_toNat,
    BitVec.toNat_ofNat]
  omega

theorem modeBits_ne_three (m : EncMode) : modeBits m ≠ 3 := by
  cases m <;> decide

/-- Settles O30: the field shows MODE's two bits, and each of the three modes is another number. -/
theorem modeFieldNeverThree : Obligations.ModeFieldNeverThree := by
  intro s
  rw [cfgView_mode]
  exact modeBits_ne_three s.mode

/-! ### The computed values -/

theorem modeBase_eq_baseConstant (m : EncMode) : modeBase m = baseConstant m := by
  cases m <;> rfl

theorem modeAck_eq_ackConstant (m : EncMode) : modeAck m = ackConstant m := by
  cases m <;> rfl

/-- Settles O31: each value is its byte formula at the latched operands. -/
theorem computedValues : Obligations.ComputedValues := by
  refine ⟨fun s i => ⟨?txa, ?exa, encL_toNat s.n, ackL_toNat s.n, ?txd, ?exd, csum_toNat s⟩,
    by decide, by decide, by decide, by decide, by decide, by decide⟩
  case txa => rw [State.txa, encA_toNat, nib_toNat, nibNumber]
  case exa => rw [State.exa, ackA_toNat, nib_toNat, nibNumber]
  case txd => rw [State.txd, encD_toNat, modeBase_eq_baseConstant]
  case exd => rw [State.exd, ackD_toNat, modeAck_eq_ackConstant]

/-! ## The sticky flags and OK (R14, R15)

Every command but CLR only adds to the raised causes, and OK is written by the checks and CLR. -/

/-! ### The word of CLR -/

/-- CLR has one word (R38): of the rows, only that of `op` 0x1 reads it. -/
theorem decode_eq_clr {w : CommandWord} (h : decode w = .ok .clr) : w = 0x100000 := by
  unfold decode at h
  split at h
  case h_2 hop =>
    obtain ⟨hf, himm, -⟩ := (decodeNone_ok_iff ..).mp h
    rw [← packFields_fields w, hf, himm, BitVec.eq_of_toNat_eq (y := 1#4) hop]
    rfl
  case h_5 =>
    unfold decodeEncd at h
    split at h <;> simp [decodeImm4_ok_iff] at h
  all_goals
    simp [decodeNone_ok_iff, decodeImm16_ok_iff, decodeImm8_ok_iff, decodeChka_ok_iff,
      decodeRdreg_ok_iff] at h

/-! ### Sticky flags -/

/-- Writing a valid bit raises nothing. -/
@[simp] theorem raised_with_av (c : Cause) (b : Bool) (st : Status) :
    Status.raised c { st with av := b } = st.raised c := by cases c <;> rfl
@[simp] theorem raised_with_lv (c : Cause) (b : Bool) (st : Status) :
    Status.raised c { st with lv := b } = st.raised c := by cases c <;> rfl
@[simp] theorem raised_with_dv (c : Cause) (b : Bool) (st : Status) :
    Status.raised c { st with dv := b } = st.raised c := by cases c <;> rfl

/-- A command other than CLR lowers no sticky flag (R15). -/
theorem execNext_keeps_raised {i : Instr} (hclr : i ≠ .clr) {c : Cause} {s : State}
    (h : s.status.raised c = true) : (execNext i s).status.raised c = true := by
  cases i with
  | clr => exact absurd rfl hclr
  | nop | enca a | csadd b | rdreg sel => simpa [execNext] using h
  | encl n => rw [execNext]; split_ifs <;> simp [raised_raise, h]
  | encdW v | encdS v | encdC v => simpa [execNext, encodeData_eq] using h
  | chka i rx | chkl rx | chkd rx | cschk rx => simp [execNext, check_raised, h]

theorem illegalCommand_keeps_raised {c : Cause} {s : State} (h : s.status.raised c = true) :
    s.illegalCommand.status.raised c = true := by
  simp [State.illegalCommand, raised_raise, h]

/-- A word other than CLR's lowers no sticky flag (R15). -/
theorem acceptNext_keeps_raised {w : CommandWord} (hw : w ≠ 0x100000) {c : Cause} {s : State}
    (h : s.status.raised c = true) : (acceptNext w s).status.raised c = true := by
  obtain ⟨i, hd, heq⟩ | ⟨-, -, heq⟩ := acceptNext_cases w s <;> rw [heq]
  · refine execNext_keeps_raised ?_ h
    rintro rfl
    exact hw (decode_eq_clr hd)
  · exact illegalCommand_keeps_raised h

/-! ### OK -/

/-- Bit 0 of a check's response is MATCH (R60). -/
theorem packCheck_getLsbD_zero (rx exp : Byte) (seq hit : Bool) :
    (packCheck rx exp seq hit).getLsbD 0 = hit :=
  getLsbD_append_ofBool_zero _ hit

/-- After a check OK is the MATCH that it answers (R59, R60). -/
theorem check_ok (valid : Bool) (e rx : Byte) (err : Cause) (s : State) :
    (s.check valid e rx err).status.ok = (s.check valid e rx err).resp.getLsbD 0 := by
  obtain ⟨-, h⟩ | ⟨-, -, h⟩ | ⟨-, -, h⟩ := check_cases valid e rx err s <;>
    rw [h, respond_resp, packCheck_getLsbD_zero] <;> simp

theorem execNext_ok_of_check {i : Instr} (hi : isCheckCommand i = true) (s : State) :
    (execNext i s).status.ok = (execNext i s).resp.getLsbD 0 := by
  cases i with
  | chka i rx | chkl rx | chkd rx | cschk rx => exact check_ok ..
  | _ => simp [isCheckCommand] at hi

/-- OK is written by the checks and CLR only (R15, R72). -/
theorem execNext_keeps_ok {i : Instr} (hi : isCheckCommand i = false) (hclr : i ≠ .clr) (s : State) :
    (execNext i s).status.ok = s.status.ok := by
  cases i with
  | clr => exact absurd rfl hclr
  | nop | enca a | encdW v | encdS v | encdC v | csadd b | rdreg sel => rfl
  | encl n => rw [execNext]; split_ifs <;> rfl
  | chka i rx | chkl rx | chkd rx | cschk rx => simp [isCheckCommand] at hi

/-- Settles O32: only CLR's word decodes to CLR, and every other word keeps the flags. -/
theorem stickyFlagsAndOk : Obligations.StickyFlagsAndOk := by
  simp only [Obligations.StickyFlagsAndOk, acceptWord_next_iff, exec_next_iff]
  refine ⟨?sticky, ?commands, ?illegal⟩
  case sticky =>
    rintro w s _ c rfl h hw
    exact acceptNext_keeps_raised hw h
  case commands =>
    rintro i s _ rfl
    exact ⟨(execNext_ok_of_check · s), (execNext_keeps_ok · · s)⟩
  case illegal =>
    rintro w e s _ hd rfl
    simp [acceptNext, hd, State.illegalCommand]

end Sys2Proof.Machine

/-!
PROOF. The order of commands (spec/20_memory.md): a run of the port over offered words takes them one after
the other (R31), and reading a view changes nothing that a view shows (R29).
-/

namespace Sys2Proof.Machine

open Sys2Proof.Claims

/-! ## Accepting words in order (R31) -/

@[simp] theorem offered_cons (w : CommandWord) (ws : List CommandWord) :
    offered (w :: ws) = PortCycle.command w :: offered ws := rfl

/-- No word stops the ones after it (R77). -/
@[simp] theorem acceptAll_cons (w : CommandWord) (ws : List CommandWord) (s : State) :
    acceptAll (w :: ws) s = acceptAll ws (acceptNext w s) := by
  simp [acceptAll, acceptWord_eq]

/-- After a reset edge, a step whose input sample offers `w` accepts `w` (R94). -/
theorem step_command {s : State} (hreset : s.resetSeen = true) (w : CommandWord)
    (rest : List PortCycle) :
    step { s with inbox := PortCycle.command w :: rest } =
      .next (acceptNext w { s with inbox := rest }) := by
  rw [step_of_inbox _ (PortCycle.command w) rest rfl]
  simp [clockEdge, PortCycle.command, hreset, acceptWord_eq]

/-- An accepted word carries the inputs to come along and is not affected by them (R9). -/
theorem acceptNext_with_inbox (w : CommandWord) (s : State) (inputs : List PortCycle) :
    acceptNext w { s with inbox := inputs } = { acceptNext w s with inbox := inputs } :=
  acceptNext_withPort s.resp s.rspValid inputs s w

/-- Settles O41, by induction on the words: the first word's step and its acceptance leave the same state but
for the inputs to come, on which no later word depends. -/
theorem portRunIsCommandsInOrder : Obligations.PortRunIsCommandsInOrder := by
  intro ws rest s hreset
  induction ws generalizing s with
  | nil => rfl
  | cons w ws ih =>
    have hreset' : (acceptNext w s).resetSeen = true := by
      obtain ⟨-, hkeeps, -⟩ := acceptNext_port w s
      exact hkeeps.trans hreset
    have hstep : step { s with inbox := offered (w :: ws) ++ rest } =
        .next { acceptNext w s with inbox := offered ws ++ rest } := by
      rw [offered_cons, List.cons_append, step_command hreset, acceptNext_with_inbox]
    rw [List.length_cons, run_succ _ _ _ hstep, ih _ hreset', acceptAll_cons,
      acceptNext_with_inbox w s rest]

/-! ## Reading a view (R29) -/

/-- No view shows RESP or `rsp_valid` (R18). -/
@[simp] theorem view_respond (sel : View) (r : ResponseWord) (s : State) :
    (s.respond r).view sel = s.view sel :=
  view_withPort r true s.inbox s sel

/-- A second response replaces the first and leaves no trace of it (R19). -/
@[simp] theorem respond_respond (r r' : ResponseWord) (s : State) :
    (s.respond r).respond r' = s.respond r' := rfl

/-- A view read after another is the view read from the state before. -/
theorem execNext_rdreg_rdreg (sel sel' : View) (s : State) :
    execNext (.rdreg sel') (execNext (.rdreg sel) s) = execNext (.rdreg sel') s := by
  simp [execNext]

/-- Settles O28: the first read is absorbed by the second, be it of the same view or of another. -/
theorem viewsAreIdempotent : Obligations.ViewsAreIdempotent := by
  intro sel sel' s
  refine ⟨execNext (.rdreg sel) s, execNext (.rdreg sel') s, exec_eq _ s, ?same, ?other, exec_eq _ s⟩
  case same => rw [exec_eq, execNext_rdreg_rdreg]
  case other => rw [exec_eq, execNext_rdreg_rdreg]

end Sys2Proof.Machine

/-!
PROOF. The encoding (spec/30_encoding.md): decoding and encoding are each other's inverse, so a row of the
opcode map, a number of R38's table and a line of assembler text are read off the encoder; the illegal
words by the operand form of their `op`; the effect of a word, legal or illegal.
-/

namespace Sys2Proof

open Sys2Proof.Machine Sys2Proof.Claims

/-! ## Decoding and encoding (R36–R38) -/

theorem low2_of_index (i : Fin 4) : ((BitVec.ofNat 4 i.val).extractLsb' 0 2).toFin = i := by
  revert i; decide

theorem high2_of_index (i : Fin 4) : (BitVec.ofNat 4 i.val).extractLsb' 2 2 = 0 := by
  revert i; decide

/-- Settles O1: each command's fields are those its operand form reads back. -/
theorem decodeEncodeRoundTrip : Obligations.DecodeEncodeRoundTrip := by
  intro i
  cases i with
  | nop | clr => rfl
  | enca a => simp [encode, decode, decodeImm16_ok_iff]
  | encl b | chkl b | chkd b | csadd b | cschk b =>
    simp [encode, decode, decodeImm8_ok_iff, low8_of_zext, high8_of_zext]
  | encdW v | encdS v | encdC v =>
    simp [encode, decode, decodeEncd, decodeImm4_ok_iff, low4_of_zext, high12_of_zext]
  | chka i rx =>
    simp only [encode, decode, fieldOp_packFields, fieldF_packFields, fieldImm_packFields]
    exact (decodeChka_ok_iff ..).mpr
      ⟨high2_of_index i, high8_of_zext rx, by rw [low2_of_index, low8_of_zext]⟩
  | rdreg sel => simp [encode, decode, decodeRdreg_ok_iff]

/-! ### The fields above an operand -/

theorem high8_eq_zero_iff (imm : Half) : imm.extractLsb' 8 8 = 0 ↔ imm.toNat / 256 = 0 := by
  have := imm.isLt
  rw [← BitVec.toNat_inj]
  simp only [BitVec.extractLsb'_toNat, Nat.shiftRight_eq_div_pow, BitVec.ofNat_eq_ofNat,
    BitVec.toNat_ofNat]
  omega

theorem high12_eq_zero_iff (imm : Half) : imm.extractLsb' 4 12 = 0 ↔ imm.toNat / 16 = 0 := by
  have := imm.isLt
  rw [← BitVec.toNat_inj]
  simp only [BitVec.extractLsb'_toNat, Nat.shiftRight_eq_div_pow, BitVec.ofNat_eq_ofNat,
    BitVec.toNat_ofNat]
  omega

theorem high2_eq_zero_iff (f : Nibble) : f.extractLsb' 2 2 = 0 ↔ f.toNat / 4 = 0 := by
  revert f; decide

theorem zext_low8 {imm : Half} (h : imm.extractLsb' 8 8 = 0) :
    (imm.extractLsb' 0 8).setWidth 16 = imm := by
  rw [high8_eq_zero_iff] at h
  apply BitVec.eq_of_toNat_eq
  simp only [BitVec.toNat_setWidth, BitVec.extractLsb'_toNat, Nat.shiftRight_eq_div_pow]
  omega

theorem zext_low4 {imm : Half} (h : imm.extractLsb' 4 12 = 0) :
    (imm.extractLsb' 0 4).setWidth 16 = imm := by
  rw [high12_eq_zero_iff] at h
  apply BitVec.eq_of_toNat_eq
  simp only [BitVec.toNat_setWidth, BitVec.extractLsb'_toNat, Nat.shiftRight_eq_div_pow]
  omega

theorem ofNat_low2 {f : Nibble} (h : f.extractLsb' 2 2 = 0) :
    BitVec.ofNat 4 (f.extractLsb' 0 2).toFin.val = f := by
  revert f; decide

/-! ### Encoding what was decoded -/

theorem packFields_of_fields {w : CommandWord} {op f : Nibble} {imm : Half} (hop : fieldOp w = op)
    (hf : fieldF w = f) (himm : fieldImm w = imm) : packFields op f imm = w := by
  rw [← hop, ← hf, ← himm, packFields_fields]

/-- Only a command's own word decodes to it: each operand form checks every bit that it does not read. -/
theorem encode_of_decode {w : CommandWord} {i : Instr} (h : decode w = .ok i) : encode i = w := by
  unfold decode at h
  split at h
  case h_1 hop | h_2 hop =>
    obtain ⟨hf, himm, rfl⟩ := (decodeNone_ok_iff ..).mp h
    exact packFields_of_fields (BitVec.eq_of_toNat_eq hop) hf himm
  case h_3 hop =>
    obtain ⟨hf, rfl⟩ := (decodeImm16_ok_iff ..).mp h
    exact packFields_of_fields (BitVec.eq_of_toNat_eq hop) hf rfl
  case h_4 hop | h_7 hop | h_8 hop | h_9 hop | h_10 hop =>
    obtain ⟨hf, himm, rfl⟩ := (decodeImm8_ok_iff ..).mp h
    exact packFields_of_fields (BitVec.eq_of_toNat_eq hop) hf (zext_low8 himm).symm
  case h_5 hop =>
    unfold decodeEncd at h
    split at h
    case h_4 => cases h
    case h_1 hf | h_2 hf | h_3 hf =>
      obtain ⟨himm, rfl⟩ := (decodeImm4_ok_iff ..).mp h
      exact packFields_of_fields (BitVec.eq_of_toNat_eq hop) (BitVec.eq_of_toNat_eq hf)
        (zext_low4 himm).symm
  case h_6 hop =>
    obtain ⟨hf, himm, rfl⟩ := (decodeChka_ok_iff ..).mp h
    exact packFields_of_fields (BitVec.eq_of_toNat_eq hop) (ofNat_low2 hf).symm (zext_low8 himm).symm
  case h_11 hop =>
    obtain ⟨himm, rfl⟩ := (decodeRdreg_ok_iff ..).mp h
    exact packFields_of_fields (BitVec.eq_of_toNat_eq hop) (code_viewOfCode _).symm himm
  case h_12 => cases h

theorem decode_eq_ok_iff (w : CommandWord) (i : Instr) : decode w = .ok i ↔ encode i = w := by
  refine ⟨encode_of_decode, ?_⟩
  rintro rfl
  exact decodeEncodeRoundTrip i

/-- Two commands have two words. -/
theorem encode_injective : Function.Injective encode := fun i j h => by
  have hdecode := (decode_eq_ok_iff (encode j) i).mpr h
  rw [decodeEncodeRoundTrip j] at hdecode
  exact (Except.ok.inj hdecode).symm

/-! ### A command's word as a number -/

theorem code_toNat (sel : View) : sel.code.toNat = selNumber sel := by
  cases sel with
  | txa i => revert i; decide
  | exa i => revert i; decide
  | _ => rfl

theorem encode_toNat (i : Instr) : (encode i).toNat = rowNumber i := by
  cases i with
  | nop | clr => rfl
  | enca a => simp [encode, rowNumber, packFields_toNat]
  | encl b | chkl b | chkd b | csadd b | cschk b | encdW b | encdS b | encdC b | chka i b =>
    simp [encode, rowNumber, packFields_toNat]; omega
  | rdreg sel => simp [encode, rowNumber, packFields_toNat, code_toNat]

theorem decode_eq_ok_iff_toNat (w : CommandWord) (i : Instr) :
    decode w = .ok i ↔ w.toNat = rowNumber i := by
  rw [decode_eq_ok_iff, ← encode_toNat, ← BitVec.toNat_inj, eq_comm]

/-- The words that R38's rows and the commands' own rules write are read as their commands. -/
theorem readsWord (i : Instr) : ReadsWord i := by
  rw [ReadsWord, ← encode_toNat, BitVec.ofNat_toNat, BitVec.setWidth_eq]
  exact decodeEncodeRoundTrip i

/-- Settles O5: the legal words are their rows' numbers. -/
theorem writtenWordsDecode : Obligations.WrittenWordsDecode :=
  ⟨readsWord (.enca 0x05D8), readsWord (.encl 3), readsWord (.encdS 0), readsWord (.chka 2 0x2D),
    readsWord (.csadd 0x34), readsWord (.rdreg .csum), by decide⟩

/-! ## The opcode map (R38)

A row that matches a word fixes each field of it up to an operand, and so shows the command whose word
it is. -/

/-- A match compares the three fields one by one. -/
theorem fields_of_and_eq {w mask value : CommandWord} (h : w &&& mask = value) :
    fieldOp w &&& fieldOp mask = fieldOp value ∧ fieldF w &&& fieldF mask = fieldF value ∧
      fieldImm w &&& fieldImm mask = fieldImm value := by
  subst h
  simp only [fieldOp, fieldF, fieldImm, BitVec.extractLsb'_and, and_self]

/-- A field is known where its mask has every bit. -/
theorem eq_of_and_ones {k : Nat} {x y : BitVec k} (h : x &&& BitVec.allOnes k = y) : x = y := by
  rwa [BitVec.and_allOnes] at h

theorem exists_byte_of_and_eq_zero {imm : Half} (h : imm &&& 0xFF00 = 0) :
    ∃ b : Byte, imm = b.setWidth 16 := by
  have hhigh := congrArg (BitVec.extractLsb' 8 8) h
  rw [BitVec.extractLsb'_and] at hhigh
  exact ⟨_, (zext_low8 (eq_of_and_ones hhigh)).symm⟩

theorem exists_nibble_of_and_eq_zero {imm : Half} (h : imm &&& 0xFFF0 = 0) :
    ∃ v : Nibble, imm = v.setWidth 16 := by
  have hhigh := congrArg (BitVec.extractLsb' 4 12) h
  rw [BitVec.extractLsb'_and] at hhigh
  exact ⟨_, (zext_low4 (eq_of_and_ones hhigh)).symm⟩

theorem exists_index_of_and_eq_zero {f : Nibble} (h : f &&& 0xC = 0) :
    ∃ i : Fin 4, f = BitVec.ofNat 4 i.val := by
  revert f; decide

/-- A row whose free field is `imm[7:0]` matches the words of one byte command. -/
theorem exists_encode_of_byte_row {w : CommandWord} {op f : Nibble} {m : Mnemonic} (mk : Byte → Instr)
    (hmk : ∀ b, (mk b).mnemonic = m ∧ encode (mk b) = packFields op f (b.setWidth 16))
    (hop : fieldOp w = op) (hf : fieldF w &&& BitVec.allOnes 4 = f) (himm : fieldImm w &&& 0xFF00 = 0) :
    ∃ i : Instr, i.mnemonic = m ∧ encode i = w := by
  obtain ⟨b, hb⟩ := exists_byte_of_and_eq_zero himm
  obtain ⟨hm, henc⟩ := hmk b
  exact ⟨mk b, hm, henc.trans (packFields_of_fields hop (eq_of_and_ones hf) hb)⟩

/-- A row whose free field is `imm[3:0]` matches the words of one nibble command. -/
theorem exists_encode_of_nibble_row {w : CommandWord} {op f : Nibble} {m : Mnemonic} (mk : Nibble → Instr)
    (hmk : ∀ v, (mk v).mnemonic = m ∧ encode (mk v) = packFields op f (v.setWidth 16))
    (hop : fieldOp w = op) (hf : fieldF w &&& BitVec.allOnes 4 = f) (himm : fieldImm w &&& 0xFFF0 = 0) :
    ∃ i : Instr, i.mnemonic = m ∧ encode i = w := by
  obtain ⟨v, hv⟩ := exists_nibble_of_and_eq_zero himm
  obtain ⟨hm, henc⟩ := hmk v
  exact ⟨mk v, hm, henc.trans (packFields_of_fields hop (eq_of_and_ones hf) hv)⟩

/-- Every row fixes the whole of `op`. -/
theorem fieldOp_mask_of_mem : ∀ r ∈ opcodeTable, fieldOp r.mask = BitVec.allOnes 4 := by decide

/-- A row that matches a word shows the command whose word it is. -/
theorem exists_encode_of_matches {w : CommandWord} {r : OpcodeRow} (hr : r ∈ opcodeTable)
    (hw : w &&& r.mask = r.value) : ∃ i : Instr, i.mnemonic = r.mnemonic ∧ encode i = w := by
  obtain ⟨hop, hf, himm⟩ := fields_of_and_eq hw
  rw [fieldOp_mask_of_mem r hr] at hop
  replace hop := eq_of_and_ones hop
  simp only [opcodeTable, List.mem_cons, List.not_mem_nil, or_false] at hr
  obtain rfl | rfl | rfl | rfl | rfl | rfl | rfl | rfl | rfl | rfl | rfl | rfl | rfl := hr
  · exact ⟨.nop, rfl, packFields_of_fields hop (eq_of_and_ones hf) (eq_of_and_ones himm)⟩
  · exact ⟨.clr, rfl, packFields_of_fields hop (eq_of_and_ones hf) (eq_of_and_ones himm)⟩
  · exact ⟨.enca _, rfl, packFields_of_fields hop (eq_of_and_ones hf) rfl⟩
  · exact exists_encode_of_byte_row .encl (fun _ => ⟨rfl, rfl⟩) hop hf himm
  · exact exists_encode_of_nibble_row .encdW (fun _ => ⟨rfl, rfl⟩) hop hf himm
  · exact exists_encode_of_nibble_row .encdS (fun _ => ⟨rfl, rfl⟩) hop hf himm
  · exact exists_encode_of_nibble_row .encdC (fun _ => ⟨rfl, rfl⟩) hop hf himm
  · obtain ⟨i, hi⟩ := exists_index_of_and_eq_zero hf
    obtain ⟨rx, hrx⟩ := exists_byte_of_and_eq_zero himm
    exact ⟨.chka i rx, rfl, packFields_of_fields hop hi hrx⟩
  · exact exists_encode_of_byte_row .chkl (fun _ => ⟨rfl, rfl⟩) hop hf himm
  · exact exists_encode_of_byte_row .chkd (fun _ => ⟨rfl, rfl⟩) hop hf himm
  · exact exists_encode_of_byte_row .csadd (fun _ => ⟨rfl, rfl⟩) hop hf himm
  · exact exists_encode_of_byte_row .cschk (fun _ => ⟨rfl, rfl⟩) hop hf himm
  · exact ⟨.rdreg _, rfl, packFields_of_fields hop (code_viewOfCode _).symm (eq_of_and_ones himm)⟩

/-- The word of every command matches the row with its mnemonic. -/
theorem encodesInItsRow (i : Instr) : Laws.EncodesInItsRow.Statement i := by
  cases i with
  | nop => exact Laws.EncodesInItsRow.nop
  | clr => exact Laws.EncodesInItsRow.clr
  | enca a => exact Laws.EncodesInItsRow.enca a
  | encl n => exact Laws.EncodesInItsRow.encl n
  | encdW v => exact Laws.EncodesInItsRow.encdW v
  | encdS v => exact Laws.EncodesInItsRow.encdS v
  | encdC v => exact Laws.EncodesInItsRow.encdC v
  | chka i rx => exact Laws.EncodesInItsRow.chka i rx
  | chkl rx => exact Laws.EncodesInItsRow.chkl rx
  | chkd rx => exact Laws.EncodesInItsRow.chkd rx
  | csadd b => exact Laws.EncodesInItsRow.csadd b
  | cschk rx => exact Laws.EncodesInItsRow.cschk rx
  | rdreg sel => exact Laws.EncodesInItsRow.rdreg sel

/-- The mnemonic names the row. -/
theorem row_eq_of_mnemonic_eq :
    ∀ r ∈ opcodeTable, ∀ r' ∈ opcodeTable, r.mnemonic = r'.mnemonic → r = r' := by decide

/-- The row a legal word matches bears the mnemonic of its command. -/
theorem mnemonic_of_matches {w : CommandWord} {i : Instr} {r : OpcodeRow} (hi : decode w = .ok i)
    (hr : r ∈ opcodeTable) (hw : w &&& r.mask = r.value) : r.mnemonic = i.mnemonic := by
  obtain ⟨j, hj, henc⟩ := exists_encode_of_matches hr hw
  rw [← hj, encode_injective (henc.trans (encode_of_decode hi).symm)]

theorem legal_iff_exists_matches (w : CommandWord) :
    (∃ i, decode w = .ok i) ↔ ∃ r ∈ opcodeTable, w &&& r.mask = r.value := by
  constructor
  · rintro ⟨i, hi⟩
    obtain ⟨r, hr, -, hfits⟩ := encodesInItsRow i
    rw [encode_of_decode hi] at hfits
    exact ⟨r, hr, beq_iff_eq.mp hfits⟩
  · rintro ⟨r, hr, hw⟩
    obtain ⟨i, -, henc⟩ := exists_encode_of_matches hr hw
    exact ⟨i, (decode_eq_ok_iff w i).mpr henc⟩

/-- Settles O2: two rows that match one word bear the mnemonic of its one command. -/
theorem opcodeMapDecides : Obligations.OpcodeMapDecides := by
  intro w
  refine ⟨legal_iff_exists_matches w, fun r hr r' hr' hw hw' => ?_,
    fun _ _ => mnemonic_of_matches, decode_eq_ok_iff_toNat w⟩
  obtain ⟨i, hi⟩ := (legal_iff_exists_matches w).mpr ⟨r, hr, hw⟩
  exact row_eq_of_mnemonic_eq r hr r' hr'
    ((mnemonic_of_matches hi hr hw).trans (mnemonic_of_matches hi hr' hw').symm)

/-! ## The illegal words (R39) -/

theorem eq_zero_iff_toNat {k : Nat} (x : BitVec k) : x = 0 ↔ x.toNat = 0 := by
  rw [← BitVec.toNat_inj]; simp

theorem decodeNone_error_iff (f : Nibble) (imm : Half) (i : Instr) :
    (∃ e, decodeNone f imm i = .error e) ↔ f.toNat ≠ 0 ∨ imm.toNat ≠ 0 := by
  simp only [ne_eq, ← eq_zero_iff_toNat]
  unfold decodeNone; split_ifs <;> simp_all

theorem decodeImm16_error_iff (f : Nibble) (imm : Half) (mk : Half → Instr) :
    (∃ e, decodeImm16 f imm mk = .error e) ↔ f.toNat ≠ 0 := by
  simp only [ne_eq, ← eq_zero_iff_toNat]
  unfold decodeImm16; split_ifs <;> simp_all

theorem decodeImm8_error_iff (f : Nibble) (imm : Half) (mk : Byte → Instr) :
    (∃ e, decodeImm8 f imm mk = .error e) ↔ f.toNat ≠ 0 ∨ imm.toNat / 256 ≠ 0 := by
  simp only [ne_eq, ← eq_zero_iff_toNat, ← high8_eq_zero_iff]
  unfold decodeImm8; split_ifs <;> simp_all

theorem decodeImm4_error_iff (imm : Half) (mk : Nibble → Instr) :
    (∃ e, decodeImm4 imm mk = .error e) ↔ imm.toNat / 16 ≠ 0 := by
  simp only [ne_eq, ← high12_eq_zero_iff]
  unfold decodeImm4; split_ifs <;> simp_all

theorem decodeEncd_error_iff (f : Nibble) (imm : Half) :
    (∃ e, decodeEncd f imm = .error e) ↔ 3 ≤ f.toNat ∨ imm.toNat / 16 ≠ 0 := by
  unfold decodeEncd
  split
  case h_1 hf | h_2 hf | h_3 hf => rw [decodeImm4_error_iff, hf]; simp
  case h_4 h0 h1 h2 =>
    simp only [imp_false] at h0 h1 h2
    simp only [Except.error.injEq, exists_eq', true_iff]
    omega

theorem decodeChka_error_iff (f : Nibble) (imm : Half) :
    (∃ e, decodeChka f imm = .error e) ↔ f.toNat / 4 ≠ 0 ∨ imm.toNat / 256 ≠ 0 := by
  simp only [ne_eq, ← high2_eq_zero_iff, ← high8_eq_zero_iff]
  unfold decodeChka; split_ifs <;> simp_all

theorem decodeRdreg_error_iff (f : Nibble) (imm : Half) :
    (∃ e, decodeRdreg f imm = .error e) ↔ imm.toNat ≠ 0 := by
  simp only [ne_eq, ← eq_zero_iff_toNat]
  unfold decodeRdreg; split_ifs <;> simp_all

/-- The decoder refuses R39's list: per `op`, what the operand form of its rows refuses. -/
theorem decode_error_iff (w : CommandWord) :
    (∃ e, decode w = .error e) ↔
      listedIllegal (fieldOp w).toNat (fieldF w).toNat (fieldImm w).toNat := by
  unfold decode
  split
  case h_1 hop | h_2 hop => rw [decodeNone_error_iff, hop]; simp [listedIllegal]
  case h_3 hop => rw [decodeImm16_error_iff, hop]; simp [listedIllegal]
  case h_4 hop | h_7 hop | h_8 hop | h_9 hop | h_10 hop =>
    rw [decodeImm8_error_iff, hop]; simp [listedIllegal]
  case h_5 hop => rw [decodeEncd_error_iff, hop]; simp [listedIllegal]
  case h_6 hop => rw [decodeChka_error_iff, hop]; simp [listedIllegal]
  case h_11 hop => rw [decodeRdreg_error_iff, hop]; simp [listedIllegal]
  case h_12 =>
    simp only [Except.error.injEq, exists_eq', true_iff]
    refine Or.inl ?_
    simp only [imp_false] at *
    omega

/-- Settles O3: each operand form refuses its part of R39's list, and every refused word has one effect. -/
theorem illegalWordOnlyFlagsIllcmd : Obligations.IllegalWordOnlyFlagsIllcmd := by
  intro w
  refine ⟨?_, fun e s he => ?_⟩
  · rw [decode_error_iff, fieldOp_toNat, fieldF_toNat, fieldImm_toNat]
  · rw [acceptWord, he, illegalCommand_eq]

/-! ## The effect of a word (R40) -/

namespace Machine

/-- A check answers no zero: SEQ or MATCH is 1, or the two bytes differ (R60). -/
theorem check_resp_ne_zero (valid : Bool) (e rx : Byte) (err : Cause) (s : State) :
    (s.check valid e rx err).resp ≠ 0 := by
  obtain ⟨-, h⟩ | ⟨-, -, h⟩ | ⟨-, hne, h⟩ := check_cases valid e rx err s <;>
    rw [h, respond_resp, Ne, eq_zero_iff_toNat, packCheck_toNat]
  · simp
  · simp
  · rw [Ne, ← BitVec.toNat_inj] at hne
    simp only [Bool.toNat_false]
    omega

/-- A state in which no view is zero: what tells NOP from every other command. -/
def loaded : State :=
  { State.reset with addr := 0x1111, n := 1, acc := 1, status := { Status.reset with ok := true } }

theorem view_ne_zero_of_loaded (sel : View) : loaded.view sel ≠ 0 := by
  cases sel with
  | txa i | exa i => revert i; decide
  | _ => decide

/-- From `loaded` only NOP and CLR answer zero. -/
theorem resp_ne_zero_of_loaded {i : Instr} (hnop : i ≠ .nop) (hclr : i ≠ .clr) :
    (execNext i loaded).resp ≠ 0 := by
  cases i with
  | nop => exact absurd rfl hnop
  | clr => exact absurd rfl hclr
  | enca a =>
    rw [execNext, respond_resp, Ne, eq_zero_iff_toNat, packTelegram_toNat, encA_toNat 0]
    omega
  | encl n =>
    rw [execNext, respond_resp, Ne, eq_zero_iff_toNat, zext_response_toNat, packPair_toNat, encL_toNat]
    omega
  | encdW v | encdS v | encdC v =>
    rw [execNext, encodeData_eq, Ne, eq_zero_iff_toNat, zext_response_toNat, packPair_toNat, encD_toNat]
    simp [modeBase, Config.wBase, Config.sBase, Config.cBase]
  | chka i rx | chkl rx | chkd rx | cschk rx => exact check_resp_ne_zero _ _ _ _ _
  | csadd b =>
    have hacc : loaded.acc.toNat = 1 := rfl
    have hb := b.isLt
    rw [execNext, respond_resp, Ne, eq_zero_iff_toNat, zext_response_toNat, BitVec.toNat_ofNat, hacc]
    omega
  | rdreg sel =>
    have hview := view_ne_zero_of_loaded sel
    rw [Ne, eq_zero_iff_toNat] at hview
    rwa [execNext, respond_resp, Ne, eq_zero_iff_toNat, zext_response_toNat]

/-- Settles O4: a zero response from `loaded` leaves NOP and CLR, and CLR clears its ADDR. -/
theorem everyWordHasDefinedEffect : Obligations.EveryWordHasDefinedEffect := by
  refine ⟨fun w => ⟨?decoded, fun s => ⟨acceptNext w s, acceptWord_eq w s⟩⟩,
    fun i => ⟨fun h => ?only, ?nop⟩⟩
  case decoded =>
    cases decode w with
    | ok i => exact .inl ⟨i, rfl⟩
    | error e => exact .inr ⟨e, rfl⟩
  case only =>
    have hnext := (exec_next_iff i loaded _).mp (h loaded)
    by_contra hnop
    by_cases hclr : i = .clr
    · subst hclr
      exact absurd (congrArg State.addr hnext) (by decide)
    · exact resp_ne_zero_of_loaded hnop hclr (congrArg State.resp hnext)
  case nop =>
    rintro rfl s
    exact exec_eq .nop s

end Machine

/-! ## The assembler (R42, R37) -/

theorem operandsFit_nil_iff (xs : List Nat) : operandsFit [] xs = true ↔ xs = [] := by
  cases xs <;> simp [operandsFit]

theorem operandsFit_cons_iff (k : Nat) (ws xs : List Nat) :
    operandsFit (k :: ws) xs = true ↔ ∃ x ys, xs = x :: ys ∧ x < 2 ^ k ∧ operandsFit ws ys = true := by
  cases xs <;> simp [operandsFit]

/-- The numbers of a source form are read back as the operands they came from. -/
theorem assembleSource_toSource (i : Instr) : assembleSource i.toSource = some (encode i) := by
  have hwf : i.toSource.wellFormed = true := wellFormed_of_instr i
  unfold assembleSource
  rw [if_pos hwf]
  cases i with
  | nop | clr => rfl
  | enca x | encl x | encdW x | encdS x | encdC x | chkl x | chkd x | csadd x | cschk x =>
    simp [Instr.toSource, commandOf]
  | chka i rx => simp [Instr.toSource, commandOf]
  | rdreg sel => simp [Instr.toSource, commandOf]

/-- Operands that fit are the operands of a command. -/
theorem exists_toSource_of_operandsFit {m : Mnemonic} {xs : List Nat}
    (h : operandsFit m.operandWidths xs = true) : ∃ i : Instr, i.toSource = .command m xs := by
  cases m <;> simp only [Mnemonic.operandWidths, operandsFit_cons_iff, operandsFit_nil_iff] at h
  case nop => exact ⟨.nop, h ▸ rfl⟩
  case clr => exact ⟨.clr, h ▸ rfl⟩
  case chka =>
    obtain ⟨i, _, rfl, hi, rx, _, rfl, hrx, rfl⟩ := h
    exact ⟨.chka ⟨i, hi⟩ (.ofNatLT rx hrx), rfl⟩
  all_goals obtain ⟨x, _, rfl, hx, rfl⟩ := h
  case enca => exact ⟨.enca (.ofNatLT x hx), rfl⟩
  case encl => exact ⟨.encl (.ofNatLT x hx), rfl⟩
  case encdW => exact ⟨.encdW (.ofNatLT x hx), rfl⟩
  case encdS => exact ⟨.encdS (.ofNatLT x hx), rfl⟩
  case encdC => exact ⟨.encdC (.ofNatLT x hx), rfl⟩
  case chkl => exact ⟨.chkl (.ofNatLT x hx), rfl⟩
  case chkd => exact ⟨.chkd (.ofNatLT x hx), rfl⟩
  case csadd => exact ⟨.csadd (.ofNatLT x hx), rfl⟩
  case cschk => exact ⟨.cschk (.ofNatLT x hx), rfl⟩
  case rdreg => exact ⟨.rdreg (viewOfCode (.ofNatLT x hx)), by rw [Instr.toSource, code_viewOfCode]; rfl⟩

theorem assembleSource_of_not_wellFormed {l : SourceLine} (h : l.wellFormed = false) :
    assembleSource l = none := by
  simp [assembleSource, h]

/-- Settles O6: a line that assembles is well formed, so it is the source form of a command. -/
theorem assemblerNeverTruncates : Obligations.AssemblerNeverTruncates := by
  refine ⟨assembleSource_toSource, fun _ => assembleSource_of_not_wellFormed, fun m xs w h => ?_⟩
  have hwf : (SourceLine.command m xs).wellFormed = true := by
    by_contra hill
    rw [assembleSource_of_not_wellFormed (Bool.eq_false_of_not_eq_true hill)] at h
    cases h
  obtain ⟨i, hi⟩ := exists_toSource_of_operandsFit hwf
  rw [← hi, assembleSource_toSource, Option.some.injEq] at h
  exact ⟨i, hi, h.symm⟩

end Sys2Proof

/-!
PROOF. The encoders (spec/40_encoders.md): each byte and each acknowledgement as a number of its operand's
digits (R44–R49), from which follow the ranges, the inverses and the one code of the data modes (R50–R53);
and the next state of each encoding command (R54–R58).
-/

namespace Sys2Proof.Machine

open Sys2Proof.Claims

/-! ## The address bytes (R44, R45) -/

theorem nibNumber_lt (i : Fin 4) (a : Half) : nibNumber i a < 16 := Nat.mod_lt _ (by decide)

/-- An address is its four nibbles, the most significant first (R8). -/
theorem toNat_eq_nibNumbers (a : Half) :
    a.toNat = 4096 * nibNumber 0 a + 256 * nibNumber 1 a + 16 * nibNumber 2 a + nibNumber 3 a := by
  have ha := a.isLt
  change a.toNat = 4096 * (a.toNat / 4096 % 16) + 256 * (a.toNat / 256 % 16)
    + 16 * (a.toNat / 16 % 16) + a.toNat / 1 % 16
  omega

theorem encA_toNat_nibNumber (i : Fin 4) (a : Half) :
    (encA i a).toNat = 0x82 + 4 * nibNumber i a := by
  rw [encA_toNat, nib_toNat, nibNumber]

theorem ackA_toNat_nibNumber (i : Fin 4) (a : Half) :
    (ackA i a).toNat = 16 * i.val + nibNumber i a := by
  rw [ackA_toNat, nib_toNat, nibNumber]

/-- An address byte is its own nibble and nothing else. -/
theorem encA_eq_iff (i : Fin 4) (a b : Half) : encA i a = encA i b ↔ nibNumber i a = nibNumber i b := by
  rw [← BitVec.toNat_inj, encA_toNat_nibNumber, encA_toNat_nibNumber]
  omega

theorem encA_range (i : Fin 4) (a : Half) : 0x82 ≤ (encA i a).toNat ∧ (encA i a).toNat ≤ 0xBE := by
  have hnib := nibNumber_lt i a
  rw [encA_toNat_nibNumber]
  omega

/-- The inverse of an address byte has no remainder (R45, R51). -/
theorem encA_inverse (i : Fin 4) (a : Half) :
    ((encA i a).toNat - 0x82) % 4 = 0 ∧ ((encA i a).toNat - 0x82) / 4 = nibNumber i a := by
  rw [encA_toNat_nibNumber]
  omega

/-- Settles O7: the byte is a function of its nibble, which is below 16. -/
theorem addressByteFormula : Obligations.AddressByteFormula := by
  intro i a
  obtain ⟨hlow, hhigh⟩ := encA_range i a
  exact ⟨encA_toNat_nibNumber i a, hlow, hhigh, fun b => (encA_eq_iff i a b).mpr⟩

/-- Settles O8: the inverse of the byte is the nibble that the acknowledgement carries. -/
theorem addressAckFormula : Obligations.AddressAckFormula := by
  intro i a
  obtain ⟨hrem, hdiv⟩ := encA_inverse i a
  have hnib := nibNumber_lt i a
  refine ⟨ackA_toNat_nibNumber i a, ?bound, hrem, ?fromByte, fun s => rfl⟩
  case bound => rw [ackA_toNat_nibNumber]; omega
  case fromByte => rw [hdiv, ackA_toNat_nibNumber]

/-- Settles O12: the inverses are the nibbles, and an address is its four nibbles. -/
theorem addressEncodingInvertible : Obligations.AddressEncodingInvertible := by
  refine ⟨encA_inverse, fun a => ?address, fun a b h => ?injective⟩
  case address =>
    simp only [(encA_inverse _ a).2]
    exact toNat_eq_nibNumbers a
  case injective =>
    have hnib : ∀ i, nibNumber i a = nibNumber i b := fun i => (encA_eq_iff i a b).mp (h i)
    apply BitVec.eq_of_toNat_eq
    rw [toNat_eq_nibNumbers a, toNat_eq_nibNumbers b, hnib 0, hnib 1, hnib 2, hnib 3]

/-! ## The length byte (R46, R47) -/

theorem encL_range (n : Byte) : 0xC2 ≤ (encL n).toNat ∧ (encL n).toNat ≤ 0xFE := by
  rw [encL_toNat]
  omega

theorem encL_toNat_of_le {n : Byte} (h : n.toNat ≤ 15) : (encL n).toNat = 0xC2 + 4 * n.toNat := by
  rw [encL_toNat]
  omega

theorem encL_toNat_of_ge {n : Byte} (h : 15 ≤ n.toNat) : (encL n).toNat = 0xFE := by
  rw [encL_toNat]
  omega

/-- The inverse of the byte of a count that the clamp leaves alone (R52). -/
theorem encL_inverse {n : Byte} (h : n.toNat ≤ 15) :
    ((encL n).toNat - 0xC2) % 4 = 0 ∧ ((encL n).toNat - 0xC2) / 4 = n.toNat := by
  rw [encL_toNat_of_le h]
  omega

theorem ackL_injective : Function.Injective ackL := by
  intro n m h
  have hn := n.isLt
  have hm := m.isLt
  rw [← BitVec.toNat_inj, ackL_toNat, ackL_toNat] at h
  apply BitVec.eq_of_toNat_eq
  omega

/-- Settles O9: the clamp and the reduction each act from where the sum passes its bound. -/
theorem lengthByteFormulas : Obligations.LengthByteFormulas := by
  refine fun n => ⟨encL_toNat n, encL_toNat_of_le, encL_toNat_of_ge, ackL_toNat n, fun _ hle => ?_⟩
  rw [ackL_toNat]
  omega

/-- Settles O13: below the clamp the byte has an inverse; adding a constant mod 256 loses nothing. -/
theorem lengthByteInjectiveWhenLegal : Obligations.LengthByteInjectiveWhenLegal := by
  refine ⟨fun n _ => encL_inverse, fun n m _ hn _ hm h => ?injective, fun n hn => ?clamped,
    fun n m h => ackL_injective h⟩
  case injective =>
    apply BitVec.eq_of_toNat_eq
    rw [← (encL_inverse hn).2, h, (encL_inverse hm).2]
  case clamped => exact BitVec.eq_of_toNat_eq (encL_toNat_of_ge hn)

/-! ## The data byte (R48, R49, R53) -/

/-- Settles O10: the two tables, mode by mode. -/
theorem dataByteFormulas : Obligations.DataByteFormulas := fun v =>
  ⟨encD_toNat .writeNibble v, encD_toNat .setBit v, encD_toNat .clearBit v,
    ackD_toNat .writeNibble v, ackD_toNat .setBit v, ackD_toNat .clearBit v⟩

/-- Where each mode begins in the one code of R53: `k` is `v` plus this. -/
def codeOffset : EncMode → Nat
  | .setBit => 0
  | .clearBit => 8
  | .writeNibble => 12

theorem codeOffset_le (m : EncMode) : codeOffset m ≤ 12 := by
  cases m <;> decide

theorem modeBase_eq_codeOffset (m : EncMode) : modeBase m = 0x12 + 4 * codeOffset m := by
  cases m <;> rfl

theorem modeAck_eq_codeOffset (m : EncMode) : modeAck m = codeOffset m + 0x04 := by
  cases m <;> rfl

theorem encD_toNat_code (m : EncMode) (v : Nibble) :
    (encD m v).toNat = 0x12 + 4 * (v.toNat + codeOffset m) := by
  rw [encD_toNat, modeBase_eq_codeOffset]
  omega

theorem ackD_toNat_code (m : EncMode) (v : Nibble) :
    (ackD m v).toNat = v.toNat + codeOffset m + 0x04 := by
  rw [ackD_toNat, modeAck_eq_codeOffset, Nat.add_assoc]

theorem encD_range (m : EncMode) (v : Nibble) : 0x12 ≤ (encD m v).toNat ∧ (encD m v).toNat ≤ 0x7E := by
  have hv := v.isLt
  have hoffset := codeOffset_le m
  rw [encD_toNat_code]
  omega

/-- Settles O14: both formulas are functions of `k` alone, and the ranges are those of the formulas. -/
theorem dataModesAreOneCode : Obligations.DataModesAreOneCode := by
  refine ⟨fun m v k hk => ?code, encD_range, encA_range, encL_range, fun v hv => ?bitModes,
    fun v => ?nibbleMode⟩
  case code =>
    have hcode : k = v.toNat + codeOffset m := by cases m <;> exact hk
    rw [encD_toNat_code, ackD_toNat_code, ← hcode]
    omega
  case bitModes =>
    obtain ⟨-, hencS, hencC, -, hackS, hackC⟩ := dataByteFormulas v
    omega
  case nibbleMode =>
    obtain ⟨hencW, -, -, hackW, -, -⟩ := dataByteFormulas v
    have hv := v.isLt
    omega

/-! ## The reset bytes (R50) -/

/-- Every wire byte lies above both reset bytes. -/
theorem ne_resetBytes_of_le {b : Byte} (h : 0x12 ≤ b.toNat) : b ≠ 0x02 ∧ b ≠ 0x06 := by
  constructor <;> rintro rfl <;> exact absurd h (by decide)

/-- The acknowledgement of address byte 0 is the top nibble (R45). -/
theorem ackA_zero_toNat (a : Half) : (ackA 0 a).toNat = a.toNat / 4096 := by
  have ha := a.isLt
  have hnib : nibNumber 0 a = a.toNat / 4096 % 16 := rfl
  rw [ackA_toNat_nibNumber, hnib, Fin.val_zero]
  omega

/-- Settles O11: the three ranges begin above 0x06, while ackA_0 is the top nibble itself. -/
theorem wireBytesAvoidResetBytes : Obligations.WireBytesAvoidResetBytes := by
  refine ⟨fun i a => ne_resetBytes_of_le ?addr, fun n => ne_resetBytes_of_le ?len,
    fun m v => ne_resetBytes_of_le (encD_range m v).1, fun a ha => ?ack, fun a ha => ?cmd⟩
  case addr => exact le_trans (by decide) (encA_range i a).1
  case len => exact le_trans (by decide) (encL_range n).1
  case ack | cmd => exact BitVec.eq_of_toNat_eq ((ackA_zero_toNat a).trans ha)

/-! ## The encoding commands (R54–R58) -/

/-- Settles O15: the response is the address telegram. -/
theorem encaLatchesAndAnswers : Obligations.EncaLatchesAndAnswers := by
  refine fun a s => ⟨readsWord (.enca a), packTelegram a, exec_eq (.enca a) s, ?_⟩
  simp only [packTelegram_toNat, encA_toNat_nibNumber]

/-- What ENCL does (R55), as one record. -/
theorem execNext_encl (n : Byte) (s : State) :
    execNext (.encl n) s =
      { s with
        n := n
        status := { s.status with
          lv := true
          lenErr := if n.toNat = 0 ∨ 15 < n.toNat then true else s.status.lenErr }
        resp := (packPair (ackL n) (encL n)).setWidth 32, rspValid := true } := by
  simp only [execNext, countIllegal_iff]
  split_ifs <;> rfl

/-- Settles O16: LENERR rises exactly on an illegal count, and the pair is answered all the same. -/
theorem enclLatchesAndFlags : Obligations.EnclLatchesAndFlags := by
  refine fun n s => ⟨readsWord (.encl n), (packPair (ackL n) (encL n)).setWidth 32, ?next, ?resp⟩
  case next => rw [exec_eq, execNext_encl]
  case resp => rw [zext_response_toNat, packPair_toNat, ackL_toNat, encL_toNat]

/-- What an ENCD answers, {ackD, encD}, as a number (R56–R58). -/
theorem dataResponse_toNat (m : EncMode) (v : Nibble) :
    ((packPair (ackD m v) (encD m v)).setWidth 32 : ResponseWord).toNat =
      256 * (v.toNat + ackConstant m) + (baseConstant m + 4 * v.toNat) := by
  rw [zext_response_toNat, packPair_toNat, ackD_toNat, encD_toNat, modeAck_eq_ackConstant,
    modeBase_eq_baseConstant]

/-- Settles O17: the three commands are one operation, each at its own mode. -/
theorem encdLatchesAndAnswers : Obligations.EncdLatchesAndAnswers := fun v s =>
  ⟨readsWord (.encdW v), readsWord (.encdS v), readsWord (.encdC v),
    ⟨_, exec_eq (.encdW v) s, dataResponse_toNat .writeNibble v⟩,
    ⟨_, exec_eq (.encdS v) s, dataResponse_toNat .setBit v⟩,
    ⟨_, exec_eq (.encdC v) s, dataResponse_toNat .clearBit v⟩⟩

end Sys2Proof.Machine

/-!
PROOF. The acknowledgement checks (spec/41_ack_check.md): the three outcomes of the check procedure as
whole next states (R59), the fields of its response (R60), and each check command as the procedure at its
own valid bit and expected byte (R62–R64).
-/

namespace Sys2Proof.Machine

open Sys2Proof.Claims

/-! ## The check procedure (R59) -/

/-- The response of a check is the number of its bytes and bits (R60). -/
theorem packCheck_eq_ofNat (rx exp : Byte) (seq hit : Bool) :
    packCheck rx exp seq hit =
      BitVec.ofNat 32 (65536 * rx.toNat + 256 * exp.toNat + 2 * seq.toNat + hit.toNat) := by
  rw [← packCheck_toNat, BitVec.ofNat_toNat, BitVec.setWidth_eq]

section Outcomes

variable (e rx : Byte) (err : Cause) (s : State)

/-- With its valid bit at 0 a check neither compares nor sets its own flag. -/
theorem check_notPerformed :
    s.check false e rx err =
      { s with
        status := { s.status with ok := false, seqErr := true }
        resp := BitVec.ofNat 32 (65536 * rx.toNat + 2), rspValid := true } := by
  have hresp : packCheck rx 0 true false = BitVec.ofNat 32 (65536 * rx.toNat + 2) := by
    simp [packCheck_eq_ofNat]
  rw [← hresp]
  rfl

theorem check_match :
    s.check true rx rx err =
      { s with
        status := { s.status with ok := true }
        resp := BitVec.ofNat 32 (65536 * rx.toNat + 256 * rx.toNat + 1), rspValid := true } := by
  rw [check_hit, packCheck_eq_ofNat]
  rfl

theorem check_mismatch (hne : rx ≠ e) :
    s.check true e rx err =
      { s with
        status := { s.status with ok := false }.raise err
        resp := BitVec.ofNat 32 (65536 * rx.toNat + 256 * e.toNat), rspValid := true } := by
  rw [State.check, if_pos rfl, if_neg (by simpa using hne), packCheck_eq_ofNat]
  rfl

/-- A check that is performed compares all eight bits of the two bytes. -/
theorem performsAs_check :
    PerformsAs (.next (s.check true e rx err)) s e.toNat rx (fun st => st.raise err) := by
  refine ⟨fun heq => ?hit, fun hne => ?miss⟩
  case hit =>
    obtain rfl : rx = e := BitVec.eq_of_toNat_eq heq
    rw [check_match]
  case miss => rw [check_mismatch e rx err s (mt (congrArg BitVec.toNat) hne)]

end Outcomes

/-- Settles O22: the valid bit chooses between not performing the check and comparing. -/
theorem checkProcedure : Obligations.CheckProcedure := by
  intro valid e rx err s
  refine ⟨?notPerformed, ?performed⟩
  case notPerformed => rintro rfl; rw [check_notPerformed]
  case performed => rintro rfl; exact performsAs_check e rx err s

/-! ## The response of a check (R60) -/

section Fields

variable (rx exp : Byte) (seq hit : Bool)

/-- A field of a check's response as a number. -/
theorem packCheck_extract_toNat (start len : Nat) :
    ((packCheck rx exp seq hit).extractLsb' start len).toNat =
      (65536 * rx.toNat + 256 * exp.toNat + 2 * seq.toNat + hit.toNat) / 2 ^ start % 2 ^ len := by
  rw [BitVec.extractLsb'_toNat, packCheck_toNat, Nat.shiftRight_eq_div_pow]

/-- The fields above SEQ: each part of the number stays below the weight of the next. -/
theorem packCheck_fields :
    (packCheck rx exp seq hit).extractLsb' 24 8 = 0 ∧
    (packCheck rx exp seq hit).extractLsb' 16 8 = rx ∧
    (packCheck rx exp seq hit).extractLsb' 8 8 = exp ∧
    (packCheck rx exp seq hit).extractLsb' 2 6 = 0 := by
  have hrx := rx.isLt
  have hexp := exp.isLt
  have hseq := seq.toNat_lt
  have hhit := hit.toNat_lt
  simp only [← BitVec.toNat_inj, packCheck_extract_toNat, BitVec.ofNat_eq_ofNat, BitVec.toNat_ofNat]
  omega

theorem packCheck_getLsbD_one : (packCheck rx exp seq hit).getLsbD 1 = seq := by
  rw [packCheck, getLsbD_append_ofBool_succ, getLsbD_append_ofBool_zero]

end Fields

/-- The three outcomes answer in one form: EXP is shown, and the comparison counts, only where the check is
performed. -/
theorem check_resp (valid : Bool) (e rx : Byte) (err : Cause) (s : State) :
    (s.check valid e rx err).resp =
      packCheck rx (if valid then e else 0) (!valid) (valid && rx == e) := by
  obtain ⟨rfl, h⟩ | ⟨rfl, rfl, h⟩ | ⟨rfl, hne, h⟩ := check_cases valid e rx err s <;>
    rw [h, respond_resp]
  · rfl
  · simp
  · simp [beq_eq_false_iff_ne.mpr hne]

/-- Settles O23: the fields are those of the one form, and OK is its MATCH bit. -/
theorem checkResponseLayout : Obligations.CheckResponseLayout := by
  intro valid e rx err s t
  have hresp : t.resp = packCheck rx (if valid then e else 0) (!valid) (valid && rx == e) :=
    check_resp valid e rx err s
  have hok : t.resp.getLsbD 0 = t.status.ok := (check_ok valid e rx err s).symm
  obtain ⟨htop, hrx, hexp, hreserved⟩ :=
    packCheck_fields rx (if valid then e else 0) (!valid) (valid && rx == e)
  rw [← hresp] at htop hrx hexp hreserved
  refine ⟨htop, hrx, hexp, hreserved, ?seq, ?hit, hok⟩ <;> rw [hresp]
  case seq => exact packCheck_getLsbD_one ..
  case hit => exact packCheck_getLsbD_zero ..

/-! ## The check commands (R62–R64)

Each is the procedure at its valid bit, its expected byte and ACKERR. -/

theorem exa_toNat (i : Fin 4) (s : State) : (s.exa i).toNat = 16 * i.val + nibNumber i s.addr :=
  ackA_toNat_nibNumber i s.addr

theorem exl_toNat (s : State) : s.exl.toNat = (0x30 + s.n.toNat) % 256 := ackL_toNat s.n

theorem exd_toNat (s : State) : s.exd.toNat = s.v.toNat + ackConstant s.mode := by
  rw [State.exd, ackD_toNat, modeAck_eq_ackConstant]

/-- Settles O18: the procedure under AV, on the expected byte of the nibble that CHKA names. -/
theorem chkaRunsCheck : Obligations.ChkaRunsCheck := by
  refine fun i rx s => ⟨readsWord (.chka i rx), ?_⟩
  rw [exec_eq, ← exa_toNat]
  exact checkProcedure s.status.av (s.exa i) rx .ackErr s

/-- Settles O19: the procedure under LV, on the acknowledgement of the latched count. -/
theorem chklRunsCheck : Obligations.ChklRunsCheck := by
  refine fun rx s => ⟨readsWord (.chkl rx), ?_⟩
  rw [exec_eq, ← exl_toNat]
  exact checkProcedure s.status.lv s.exl rx .ackErr s

/-- Settles O20: the procedure under DV, on the acknowledgement of the latched value in its mode. -/
theorem chkdRunsCheck : Obligations.ChkdRunsCheck := by
  refine fun rx s => ⟨readsWord (.chkd rx), ?_⟩
  rw [exec_eq, ← exd_toNat]
  exact checkProcedure s.status.dv s.exd rx .ackErr s

end Sys2Proof.Machine

/-!
PROOF. The checksum (spec/42_checksum.md): what one CSADD and one CSCHK do (R69, R70), and what a run that
clears the engine and then sums the bytes of a list leaves for the views and for the verifier (R65–R67).
-/

namespace Sys2Proof.Machine

open Sys2Proof.Claims

/-! ## CSADD (R69) -/

/-- The wrap of ACC at 2^16 is exact: nothing is cut off the reduced sum. -/
theorem csadd_acc_toNat (b : Byte) (s : State) :
    (execNext (.csadd b) s).acc.toNat = (s.acc.toNat + b.toNat) % 65536 :=
  (BitVec.toNat_ofNat ..).trans (Nat.mod_mod ..)

/-- Settles O24: the response is the new ACC, zero-extended. -/
theorem csaddAccumulates : Obligations.CsaddAccumulates := fun b s =>
  ⟨readsWord (.csadd b), _, _, exec_eq (.csadd b) s, csadd_acc_toNat b s, zext_response_toNat _⟩

/-! ## CSCHK (R70) -/

/-- Settles O21: the procedure with its valid bit at 1, on CSUM and CSERR. -/
theorem cschkRunsCheck : Obligations.CschkRunsCheck := by
  refine fun rx s => ⟨readsWord (.cschk rx), ?_⟩
  rw [exec_eq, ← csum_toNat]
  exact performsAs_check s.csum rx .csErr s

/-- The verifier compares with CSUM only (R66). -/
theorem eq_csum_iff (rx : Byte) (s : State) : rx = s.csum ↔ rx.toNat = s.acc.toNat % 256 := by
  rw [← csum_toNat, BitVec.toNat_inj]

theorem cschk_ok_iff (rx : Byte) (s : State) :
    (execNext (.cschk rx) s).status.ok = true ↔ rx.toNat = s.acc.toNat % 256 := by
  rw [execNext, check_ok, check_resp, packCheck_getLsbD_zero, Bool.true_and, beq_iff_eq, eq_csum_iff]

/-- CSERR is sticky, so that it tells of a mismatch only where it was 0 before. -/
theorem cschk_csErr_iff (rx : Byte) {s : State} (hclean : s.status.csErr = false) :
    (execNext (.cschk rx) s).status.csErr = true ↔ rx.toNat ≠ s.acc.toNat % 256 := by
  rw [execNext, ← raised_csErr, check_raised, ne_eq, ← eq_csum_iff]
  simp [hclean]

/-! ## Sums of data bytes (R65, R67) -/

theorem byteSum_cons (b : Byte) (bs : List Byte) : byteSum (b :: bs) = b.toNat + byteSum bs := rfl

theorem byteSum_le (bs : List Byte) : byteSum bs ≤ bs.length * 255 := by
  have hbyte : ∀ x ∈ bs.map BitVec.toNat, x ≤ 255 := by
    intro x hx
    obtain ⟨b, -, rfl⟩ := List.mem_map.mp hx
    exact Nat.le_of_lt_succ b.isLt
  simpa [byteSum] using List.sum_le_card_nsmul _ 255 hbyte

/-- ACC[7:0] is exact for every number of bytes, because 256 divides 65536 (R67). -/
theorem csum_eq_checksum {bs : List Byte} {s : State} (hacc : s.acc.toNat = byteSum bs % 65536) :
    s.csum = checksum bs := by
  refine BitVec.eq_of_toNat_eq ?_
  rw [csum_toNat, checksum_toNat, hacc, byteSum, Nat.mod_mod_of_dvd _ (by decide)]

/-! ## Runs that sum a list of bytes (R67) -/

theorem sumWords_cons (b : Byte) (bs : List Byte) :
    sumWords (b :: bs) = BitVec.ofNat 24 (rowNumber (.csadd b)) :: sumWords bs := rfl

/-- After a reset edge, a step whose input sample offers a command's word runs the command (R94). -/
theorem step_of_offered_command {s : State} (hreset : s.resetSeen = true) (i : Instr)
    {rest : List PortCycle}
    (hinbox : s.inbox = PortCycle.command (BitVec.ofNat 24 (rowNumber i)) :: rest) :
    step s = .next (execNext i { s with inbox := rest }) := by
  have hdecode : decode (BitVec.ofNat 24 (rowNumber i)) = .ok i := readsWord i
  rw [step_of_inbox s _ rest hinbox]
  simp [clockEdge, PortCycle.command, hreset, acceptWord, hdecode, exec_eq]

/-- A run over the words of a list of bytes goes on from a state that differs in ACC by their sum, with the
same STATUS. By induction on the bytes: one CSADD adds one of them. -/
theorem run_sumWords (bs : List Byte) (k : Nat) {rest : List PortCycle} {s : State}
    (hreset : s.resetSeen = true) (hinbox : s.inbox = offered (sumWords bs) ++ rest) :
    ∃ t : State, Host.Core.run Sys2Proof.core (bs.length + k) s = Host.Core.run Sys2Proof.core k t ∧
      t.resetSeen = true ∧ t.inbox = rest ∧ t.status = s.status ∧
      t.acc.toNat = (s.acc.toNat + byteSum bs) % 65536 := by
  induction bs generalizing s with
  | nil => exact ⟨s, by rw [List.length_nil, Nat.zero_add], hreset, hinbox, rfl,
      (Nat.mod_eq_of_lt s.acc.isLt).symm⟩
  | cons b bs ih =>
    rw [sumWords_cons, offered_cons, List.cons_append] at hinbox
    have hstep := step_of_offered_command hreset (.csadd b) hinbox
    obtain ⟨t, hrun, hreset', hrest, hstatus, hacc⟩ :=
      ih (s := execNext (.csadd b) { s with inbox := offered (sumWords bs) ++ rest }) hreset rfl
    refine ⟨t, ?run, hreset', hrest, hstatus, ?acc⟩
    case run => rw [List.length_cons, Nat.add_right_comm, run_succ _ _ _ hstep, hrun]
    case acc => rw [hacc, csadd_acc_toNat, byteSum_cons, Nat.mod_add_mod, Nat.add_assoc]

/-- An edge that resets, or that accepts CLR, clears ACC and STATUS (R72, R86). -/
theorem step_clears {p : PortCycle} {rest : List PortCycle} {s : State} (hinbox : s.inbox = p :: rest)
    (hclears : p.rst = true ∨ (p = ⟨false, true, 0x100000⟩ ∧ s.resetSeen = true)) :
    ∃ t : State, step s = .next t ∧ t.resetSeen = true ∧ t.inbox = rest ∧ t.status = Status.reset ∧
      t.acc = 0 := by
  obtain hrst | ⟨rfl, hreset⟩ := hclears
  · refine ⟨State.resetEdge { s with inbox := rest }, ?_, rfl, rfl, rfl, rfl⟩
    rw [step_of_inbox s p rest hinbox, clockEdge, if_pos hrst]
  · exact ⟨_, step_of_offered_command hreset .clr hinbox, hreset, rfl, rfl, rfl⟩

/-- The run of R67: after a clear ACC is the sum of the bytes. The `k` steps that follow are still to go. -/
theorem run_clear_sumWords (bs : List Byte) (k : Nat) {p : PortCycle} {rest : List PortCycle} {s : State}
    (hinbox : s.inbox = p :: (offered (sumWords bs) ++ rest))
    (hclears : p.rst = true ∨ (p = ⟨false, true, 0x100000⟩ ∧ s.resetSeen = true)) :
    ∃ t : State, Host.Core.run Sys2Proof.core (bs.length + k + 1) s = Host.Core.run Sys2Proof.core k t ∧
      t.resetSeen = true ∧ t.inbox = rest ∧ t.status = Status.reset ∧
      t.acc.toNat = byteSum bs % 65536 := by
  obtain ⟨u, hstep, hreset, hrest, hcleared, hzero⟩ := step_clears hinbox hclears
  obtain ⟨t, hrun, hreset', hrest', hstatus, hacc⟩ := run_sumWords bs k hreset hrest
  refine ⟨t, (run_succ _ _ _ hstep).trans hrun, hreset', hrest', hstatus.trans hcleared, ?_⟩
  simpa [hzero] using hacc

/-- Settles O43: the run leaves the sum mod 65536, and 257 bytes sum to 65535 at most. -/
theorem accumulatorHoldsRunningSum : Obligations.AccumulatorHoldsRunningSum := by
  intro bs p rest s hclears hinbox
  obtain ⟨t, hrun, -, hrest, -, hacc⟩ := run_clear_sumWords bs 0 hinbox hclears
  have hchecksum : t.csum = checksum bs := csum_eq_checksum hacc
  have hbound := byteSum_le bs
  refine ⟨t, hrun, hrest, hacc, ?csum, hchecksum, ?exact, ?legal⟩
  case csum => rw [hchecksum, checksum_toNat, byteSum]
  case exact => omega
  case legal => omega

/-- Settles O44: after the run of R67 CSERR is 0, and CSCHK compares with the sum of the bytes. -/
theorem verifierAcceptsExactlyTheSum : Obligations.VerifierAcceptsExactlyTheSum := by
  intro bs rx rest s hreset hinbox
  obtain ⟨t, hrun, hreset', hrest, hstatus, hacc⟩ :=
    run_clear_sumWords bs 1 hinbox (.inr ⟨rfl, hreset⟩)
  have hstep := step_of_offered_command hreset' (.cschk rx) hrest
  have hclean : t.status.csErr = false := by rw [hstatus]; rfl
  have hsum : byteSum bs % 256 = t.acc.toNat % 256 := by
    rw [hacc, Nat.mod_mod_of_dvd _ (by decide)]
  rw [hsum]
  exact ⟨_, hrun.trans (run_succ 0 _ _ hstep), cschk_ok_iff rx _, cschk_csErr_iff rx hclean⟩

end Sys2Proof.Machine

/-!
PROOF. The control commands (spec/43_control.md): each read-back view as the number R18's table gives it,
which RDREG answers (R73), and the whole next states of NOP and CLR (R71, R72).
-/

namespace Sys2Proof.Machine

open Sys2Proof.Claims

/-! ## The views as numbers (R18) -/

theorem append_ofBool_toNat {k : Nat} (x : BitVec k) (b : Bool) :
    (x ++ BitVec.ofBool b).toNat = 2 * x.toNat + bit b := by
  rw [append_toNat, Nat.mul_comm]
  cases b <;> rfl

/-- The STATUS view is R14's bits, each at the weight of its position. -/
theorem statusWord_toNat (st : Status) : st.word.toNat = statusNumber st := by
  simp only [Status.word, append_ofBool_toNat, BitVec.toNat_ofNat, statusNumber, Status.any]
  omega

/-- A byte shown as a view keeps its value: `zext_16`. -/
theorem zext_view_toNat (b : Byte) : (b.setWidth 16).toNat = b.toNat := by
  have hb := b.isLt
  rw [BitVec.toNat_setWidth, Nat.mod_eq_of_lt (by omega)]

theorem modeBits_toNat (m : EncMode) : (modeBits m).toNat = modeNumber m := by
  cases m <;> rfl

theorem cfgView_toNat (s : State) :
    (s.view .cfg).toNat = 4096 * modeNumber s.mode + 256 * s.v.toNat + s.n.toNat := by
  simp only [State.view, append_toNat, BitVec.toNat_ofNat, modeBits_toNat]
  omega

/-- Every view shows the value of its row in R18's table. -/
theorem view_toNat (s : State) (sel : View) : (s.view sel).toNat = viewNumber s sel := by
  cases sel with
  | status => exact statusWord_toNat s.status
  | addr | acc | id => rfl
  | txa i => exact (zext_view_toNat _).trans (encA_toNat_nibNumber i s.addr)
  | exa i => exact (zext_view_toNat _).trans (exa_toNat i s)
  | len => rw [State.view, packPair_toNat, exl_toNat, State.txl, encL_toNat, viewNumber]
  | data =>
    rw [State.view, packPair_toNat, exd_toNat, State.txd, encD_toNat, modeBase_eq_baseConstant,
      viewNumber]
  | cfg => exact cfgView_toNat s
  | csum => exact (zext_view_toNat _).trans (csum_toNat s)

/-! ## The commands (R71–R73) -/

/-- Settles O27: the response is the view of the state before, and zero-extension keeps its number. -/
theorem rdregAnswersView : Obligations.RdregAnswersView := fun sel s =>
  ⟨readsWord (.rdreg sel), _, exec_eq (.rdreg sel) s, (zext_response_toNat _).trans (view_toNat s sel)⟩

/-- Settles O25: NOP is a zero response. -/
theorem nopOnlyAnswersZero : Obligations.NopOnlyAnswersZero :=
  ⟨readsWord .nop, exec_eq .nop⟩

/-- Settles O26: CLR leaves the registers of the reset state. -/
theorem clrWritesResetValues : Obligations.ClrWritesResetValues := by
  refine ⟨readsWord .clr, fun s => ?_⟩
  rw [exec_eq, execNext, clear_respond_eq]
  rfl

end Sys2Proof.Machine

/-!
PROOF. The error causes (spec/60_exceptions.md): the cause a check raises, said once for the four check
commands (R59); every command's next state as R78's table of causes, from which at most one cause a command
follows (R80); and the steps, none of which stops after a reset edge (R77).
-/

namespace Sys2Proof.Machine

open Sys2Proof.Claims

/-! ## The cause that a check raises (R59) -/

/-- R59's two ways to raise a cause: SEQERR where the check is not performed, its own flag on a mismatch. -/
def CheckRaises (valid : Bool) (e rx : Byte) (err c : Cause) : Prop :=
  (valid = true ∧ rx ≠ e ∧ c = err) ∨ (valid = false ∧ c = .seqErr)

@[simp] theorem checkRaises_false_iff (e rx : Byte) (err c : Cause) :
    CheckRaises false e rx err c ↔ c = .seqErr := by
  simp [CheckRaises]

@[simp] theorem checkRaises_true_iff (e rx : Byte) (err c : Cause) :
    CheckRaises true e rx err c ↔ rx ≠ e ∧ c = err := by
  simp [CheckRaises]

/-- The valid bit chooses between the two ways. -/
theorem CheckRaises.unique {valid : Bool} {e rx : Byte} {err c c' : Cause}
    (h : CheckRaises valid e rx err c) (h' : CheckRaises valid e rx err c') : c = c' := by
  cases valid with
  | false =>
    rw [checkRaises_false_iff] at h h'
    exact h.trans h'.symm
  | true =>
    rw [checkRaises_true_iff] at h h'
    exact h.2.trans h'.2.symm

theorem check_raised_iff (valid : Bool) (e rx : Byte) (err c : Cause) (s : State) :
    (s.check valid e rx err).status.raised c = true ↔
      s.status.raised c = true ∨ CheckRaises valid e rx err c := by
  simp [check_raised, CheckRaises, or_assoc, and_assoc]

/-- A check with its valid bit at 0 sets SEQERR and leaves ACKERR (R80). -/
theorem check_false_flags (e rx : Byte) (err : Cause) (s : State) :
    (s.check false e rx err).status.seqErr = true ∧
      (s.check false e rx err).status.ackErr = s.status.ackErr := by
  rw [check_notPerformed]
  exact ⟨rfl, rfl⟩

/-! ## R78's table

The rows of the table, each as what its command does: a check by its valid bit, expected byte and flag, and
ENCL by its test of the count. -/

section Table

variable (rx : Byte) (s : State) (c : Cause)

theorem raisesCause_chka_iff (i : Fin 4) :
    RaisesCause (.chka i rx) s c ↔ CheckRaises s.status.av (s.exa i) rx .ackErr c := by
  cases c <;> simp [RaisesCause, CheckRaises, ← BitVec.toNat_inj, exa_toNat]

theorem raisesCause_chkl_iff :
    RaisesCause (.chkl rx) s c ↔ CheckRaises s.status.lv s.exl rx .ackErr c := by
  cases c <;> simp [RaisesCause, CheckRaises, ← BitVec.toNat_inj, exl_toNat]

theorem raisesCause_chkd_iff :
    RaisesCause (.chkd rx) s c ↔ CheckRaises s.status.dv s.exd rx .ackErr c := by
  cases c <;> simp [RaisesCause, CheckRaises, ← BitVec.toNat_inj, exd_toNat]

theorem raisesCause_cschk_iff :
    RaisesCause (.cschk rx) s c ↔ CheckRaises true s.csum rx .csErr c := by
  cases c <;> simp [RaisesCause, eq_csum_iff]

theorem raisesCause_encl_iff (n : Byte) :
    RaisesCause (.encl n) s c ↔ countIllegal n = true ∧ c = .lenErr := by
  cases c <;> simp [RaisesCause, countIllegal_iff]

end Table

/-- No row of the table is met with two causes (R80). -/
theorem raisesCause_unique {i : Instr} {s : State} {c c' : Cause} (h : RaisesCause i s c)
    (h' : RaisesCause i s c') : c = c' := by
  cases i with
  | chka i rx => rw [raisesCause_chka_iff] at h h'; exact h.unique h'
  | chkl rx => rw [raisesCause_chkl_iff] at h h'; exact h.unique h'
  | chkd rx => rw [raisesCause_chkd_iff] at h h'; exact h.unique h'
  | cschk rx => rw [raisesCause_cschk_iff] at h h'; exact h.unique h'
  | encl n =>
    rw [raisesCause_encl_iff] at h h'
    exact h.2.trans h'.2.symm
  | nop | clr | enca a | encdW v | encdS v | encdC v | csadd b | rdreg sel => exact h.elim

/-! ## The causes raised after a command or an illegal word -/

/-- A command but CLR keeps the causes raised before it, and adds what R78's table says. -/
theorem execNext_raised_iff (i : Instr) (s : State) (c : Cause) :
    (execNext i s).status.raised c = true ↔
      (i ≠ .clr ∧ s.status.raised c = true) ∨ RaisesCause i s c := by
  cases i with
  | chka i rx => rw [execNext, check_raised_iff, raisesCause_chka_iff]; simp
  | chkl rx => rw [execNext, check_raised_iff, raisesCause_chkl_iff]; simp
  | chkd rx => rw [execNext, check_raised_iff, raisesCause_chkd_iff]; simp
  | cschk rx => rw [execNext, check_raised_iff, raisesCause_cschk_iff]; simp
  | encl n =>
    rw [execNext, raisesCause_encl_iff]
    split_ifs with hn <;> simp [raised_raise, hn]
  | nop | clr | enca a | csadd b | rdreg sel => simp [execNext, RaisesCause]
  | encdW v | encdS v | encdC v => simp [execNext, encodeData_eq, RaisesCause]

theorem illegalCommand_raised_iff (s : State) (c : Cause) :
    s.illegalCommand.status.raised c = true ↔ s.status.raised c = true ∨ c = .illCmd := by
  simp [State.illegalCommand, raised_raise]

theorem acceptNext_of_illegal {w : CommandWord} {e : IllegalWord} (h : decode w = .error e) (s : State) :
    acceptNext w s = s.illegalCommand := by
  simp [acceptNext, h]

/-- Settles O34: a command follows R78's table, and an illegal word adds ILLCMD. -/
theorem causesRaisedExactlyWhen : Obligations.CausesRaisedExactlyWhen := by
  refine ⟨fun i s c => ⟨execNext i s, exec_eq i s, execNext_raised_iff i s c⟩,
    fun w e s c hd => ⟨acceptNext w s, acceptWord_eq w s, ?_⟩⟩
  rw [acceptNext_of_illegal hd, illegalCommand_raised_iff]

/-! ## At most one cause, and reset (R80) -/

/-- A cause that a command newly raises is one that R78's table lets it raise. -/
theorem raisesCause_of_newlyRaised {i : Instr} {s : State} {c : Cause}
    (h : NewlyRaised c s (execNext i s)) : RaisesCause i s c := by
  obtain ⟨hbefore, hafter⟩ := h
  exact ((execNext_raised_iff i s c).mp hafter).resolve_left (by simp [hbefore])

theorem eq_illCmd_of_newlyRaised {s : State} {c : Cause} (h : NewlyRaised c s s.illegalCommand) :
    c = .illCmd := by
  obtain ⟨hbefore, hafter⟩ := h
  exact ((illegalCommand_raised_iff s c).mp hafter).resolve_left (by simp [hbefore])

theorem newlyRaised_unique {w : CommandWord} {s : State} {c c' : Cause}
    (h : NewlyRaised c s (acceptNext w s)) (h' : NewlyRaised c' s (acceptNext w s)) : c = c' := by
  obtain ⟨i, -, heq⟩ | ⟨-, -, heq⟩ := acceptNext_cases w s <;> rw [heq] at h h'
  · exact raisesCause_unique (raisesCause_of_newlyRaised h) (raisesCause_of_newlyRaised h')
  · exact (eq_illCmd_of_newlyRaised h).trans (eq_illCmd_of_newlyRaised h').symm

/-- At an edge with `rst` = 1 nothing of the offered word is read (R86). -/
theorem clockEdge_reset {p : PortCycle} (h : p.rst = true) (s : State) :
    clockEdge p s = .next s.resetEdge := by
  simp [clockEdge, h]

/-- Settles O33: each command's row of R78's table names one cause, and the valid bit keeps the check's two
causes apart. -/
theorem atMostOneCause : Obligations.AtMostOneCause := by
  simp only [Obligations.AtMostOneCause, acceptWord_next_iff, exec_next_iff]
  refine ⟨?word, ?illegal, ?chka, ?chkl, ?chkd, ?encl, ?cschk, fun p s hp => clockEdge_reset hp s⟩
  case word =>
    rintro w s _ c c' rfl h h'
    exact newlyRaised_unique h h'
  case illegal =>
    rintro w e s _ c hd rfl h
    rw [acceptNext_of_illegal hd] at h
    exact eq_illCmd_of_newlyRaised h
  case chka =>
    rintro i rx s _ hav rfl
    rw [execNext, hav]
    exact check_false_flags ..
  case chkl =>
    rintro rx s _ hlv rfl
    rw [execNext, hlv]
    exact check_false_flags ..
  case chkd =>
    rintro rx s _ hdv rfl
    rw [execNext, hdv]
    exact check_false_flags ..
  case encl =>
    rintro n s _ c rfl h
    exact ((raisesCause_encl_iff s c n).mp (raisesCause_of_newlyRaised h)).2
  case cschk =>
    rintro rx s _ c rfl h
    have hraises := (raisesCause_cschk_iff rx s c).mp (raisesCause_of_newlyRaised h)
    exact ((checkRaises_true_iff ..).mp hraises).2

/-! ## No step stops (R77) -/

/-- Settles O35: of the four things an edge can do, only a word before the first reset edge has no next
state, and the others keep the reset seen. -/
theorem stepNeverStops : Obligations.StepNeverStops := by
  intro s hreset
  have hinput : s.takeInput.resetSeen = true := hreset
  unfold step
  obtain ⟨-, h⟩ | ⟨-, -, -, h⟩ | ⟨-, -, hunseen, -⟩ | ⟨-, -, h⟩ :=
    clockEdge_cases s.nextInput s.takeInput
  · exact ⟨_, h, resetEdge_resetSeen _⟩
  · obtain ⟨-, hseen, -⟩ := acceptNext_port s.nextInput.cmdWord s.takeInput
    exact ⟨_, h, hseen.trans hinput⟩
  · rw [hinput] at hunseen
    cases hunseen
  · exact ⟨_, h, hinput⟩

end Sys2Proof.Machine

/-!
PROOF. Reset and hazards (spec/70_reset_and_hazards.md): what `step` does for each kind of input sample the
next edge can take (R86, R87, R94), from which the edges that accept a command, the reset edge, the one reset
edge that is enough (R88) and the refusal before it follow.
-/

namespace Sys2Proof.Machine

/-! ## One step for each kind of input sample -/

section Edges

variable {s : State} {rest : List PortCycle}

/-- An edge with `rst` = 1 is a reset edge whatever is offered (R86). -/
theorem step_of_reset {p : PortCycle} (hrst : p.rst = true) (hinbox : s.inbox = p :: rest) :
    step s = .next { State.reset with inbox := rest } := by
  rw [step_of_inbox s p rest hinbox, clockEdge_reset hrst]
  rfl

/-- After a reset edge, an edge that offers a word accepts it (R94). -/
theorem step_of_offered {w : CommandWord} (hreset : s.resetSeen = true)
    (hinbox : s.inbox = PortCycle.command w :: rest) :
    step s = acceptWord w { s with inbox := rest } := by
  rw [step_of_inbox s _ rest hinbox]
  simp [clockEdge, PortCycle.command, hreset]

/-- Before the first reset edge, an edge that offers a word has no meaning (R87). -/
theorem step_of_offered_unreset {w : CommandWord} (hreset : s.resetSeen = false)
    (hinbox : s.inbox = PortCycle.command w :: rest) : step s = .refused .commandBeforeReset := by
  rw [step_of_inbox s _ rest hinbox]
  simp [clockEdge, PortCycle.command, hreset]

/-- An edge with `rst` = 0 that offers nothing keeps the registers (R94), whether a reset edge has been seen
or not. -/
theorem step_of_not_offered {w : CommandWord} (hinbox : s.inbox = ⟨false, false, w⟩ :: rest) :
    step s = .next { s with rspValid := false, inbox := rest } := by
  rw [step_of_inbox s _ rest hinbox]
  rfl

/-- With no input sample left nothing is offered, and none is taken (log entry 1). -/
theorem step_of_no_inputs (hinbox : s.inbox = []) : step s = .next { s with rspValid := false } := by
  simp [step, State.nextInput, State.takeInput, hinbox, PortCycle.idle, clockEdge, State.idleEdge]

end Edges

/-- An edge that has a next state leaves the samples to come, and shows a response exactly where it accepts a
word (R94). -/
theorem clockEdge_port {p : PortCycle} {s t : State} (h : clockEdge p s = .next t) :
    t.inbox = s.inbox ∧ (t.rspValid = true ↔ p.cmdValid = true ∧ p.rst = false) := by
  obtain ⟨hrst, he⟩ | ⟨hrst, hvalid, -, he⟩ | ⟨-, -, -, he⟩ | ⟨-, hvalid, he⟩ := clockEdge_cases p s <;>
    rw [he] at h
  · cases h
    simp [hrst]
  · cases h
    obtain ⟨hshown, -, hinbox⟩ := acceptNext_port p.cmdWord s
    simp [hshown, hinbox, hrst, hvalid]
  · cases h
  · cases h
    simp [hvalid]

/-! ## The statements -/

/-- Settles O37: an accepted word shows its response, and the other kinds of edge show none. -/
theorem acceptingEdges : Obligations.AcceptingEdges := by
  refine ⟨?accepted, ?sample, fun _ _ _ => step_of_not_offered, fun _ => step_of_no_inputs⟩
  case accepted =>
    intro s w rest hinbox hreset
    have haccept := acceptWord_eq w { s with inbox := rest }
    obtain ⟨hshown, -, -⟩ := acceptNext_port w { s with inbox := rest }
    exact ⟨_, (step_of_offered hreset hinbox).trans haccept, haccept, Prod.ext hshown rfl⟩
  case sample =>
    intro s t p rest hinbox hstep
    rw [step_of_inbox s p rest hinbox] at hstep
    exact clockEdge_port hstep

/-- Settles O39: the reset edge leaves the reset state, from which the offered word is accepted. -/
theorem oneResetEdgeIsEnough : Obligations.OneResetEdgeIsEnough := by
  intro s p w rest hinbox hrst
  have hresetEdge := step_of_reset hrst hinbox
  have hcommand := step_command (s := State.reset) rfl w rest
  rw [run_succ 1 _ _ hresetEdge, acceptWord_eq]
  exact run_succ 0 _ _ hcommand

/-- Settles O36: accepting a word that decodes to a command is running the command. -/
theorem stepRunsDecodedCommand : Obligations.StepRunsDecodedCommand := by
  intro s w i rest hinbox hreset hdecode
  rw [step_of_offered hreset hinbox, acceptWord, hdecode]

/-- Settles O38: the values of R86 are those of the reset state. -/
theorem resetEdgeClearsEverything : Obligations.ResetEdgeClearsEverything :=
  fun _ _ _ _ hinbox => ⟨rfl, step_of_reset rfl hinbox⟩

/-- Settles O40: the power-up state has no reset edge behind it, so that the word is refused there. -/
theorem noMeaningBeforeReset : Obligations.NoMeaningBeforeReset :=
  ⟨fun _ _ _ hreset hinbox => step_of_offered_unreset hreset hinbox, fun _ => rfl⟩

/-- Settles O45: the reset state is what a reset edge leaves. -/
theorem latchesAgreeAtReset : Obligations.LatchesAgreeAtReset :=
  .of_resetEdge State.reset

end Sys2Proof.Machine
